-- ==== Sys2Proof/Word.lean ====
section
/-! DEFINITION. The word of the block (R13: every data path is 32 bits wide) and the byte of a
platform bridge (R72). -/

namespace Sys2Proof

/-- A 32-bit word: an operand, a VALUE, a queue entry, a payload word, a counter (R13). -/
abbrev Word := BitVec 32

/-- A byte, which only a platform bridge sees (R72). -/
abbrev Byte := BitVec 8

end Sys2Proof
end

