-- ==== Sys2Proof/Syntax.lean ====
section
/-! DEFINITION. What the block is asked to do: the 21 commands of R95, the transaction that carries
one (R90), and the events of R254, by which the agents of the block and the world around it move. -/

namespace Sys2Proof

/-- An instance of the double buffer (R18, R27): SEL bit 0 of a class-I command (R92). -/
inductive Inst where
  /-- Instance 0: the ports produce and the tick unit consumes. -/
  | tx
  /-- Instance 1: the ports produce and consume. -/
  | rx
deriving DecidableEq, Repr

/-- The commands of R95, one constructor for each row of spec/opcode_table.json. A constructor holds
SEL where its class gives SEL a meaning (R92) and the operands that R93 says the command reads; an
operand the command ignores is not part of it. -/
inductive Instr where
  /-- R230. -/
  | nop
  /-- R231. -/
  | csrRead (csr : BitVec 8)
  /-- R232. -/
  | setFormat (rate depth : Word)
  /-- R233. -/
  | statsClear
  /-- R115. -/
  | ppmEncode (sample : Word)
  /-- R116. -/
  | ppmDecode (code : Word)
  /-- R117. -/
  | downmix (left right : Word)
  /-- R120. -/
  | pdmStep (sample : Word)
  /-- R146. -/
  | genPush (width : Word)
  /-- R147. -/
  | detPop
  /-- R167. -/
  | rxCorrect (measured : Word)
  /-- R166. -/
  | rxPoll
  /-- R180. -/
  | dbBegin (inst : Inst)
  /-- R181. -/
  | dbPut (inst : Inst) (element : Word)
  /-- R182. -/
  | dbCommit (inst : Inst)
  /-- R184. -/
  | dbGet (inst : Inst)
  /-- R201. -/
  | fifoPush (word : Word)
  /-- R202. -/
  | fifoPop
  /-- R205. -/
  | ringAppend (word : Word)
  /-- R207. -/
  | ringFlush
  /-- R208. -/
  | ringPop
deriving DecidableEq, Repr

/-- One of the two command ports (R18, R264). -/
inductive PortId where
  /-- Core 0, the pulse side. -/
  | a
  /-- Core 1, the USB side. -/
  | b
deriving DecidableEq, Repr

/-- A command transaction (R90): the command word and the two operands. -/
structure Txn where
  /-- CMD: OP in bits 15:8, SEL in bits 7:0. -/
  cmd : BitVec 16
  /-- Operand A. -/
  a : Word
  /-- Operand B. -/
  b : Word
deriving DecidableEq, Repr

/-- One move of the block or of the world around it: the steps of R254's table and the power-on
reset of R280. An event whose step is not enabled changes nothing (log 6). -/
inductive Event where
  /-- A core presents a command on its port; if the port is free it is accepted and the port takes
  its step at once (R90, R254, R256). -/
  | command (p : PortId) (t : Txn)
  /-- A port with a command in progress takes its step: the waiting command is tried again, or the
  held RX_POLL completes (R256, R168). -/
  | proceed (p : PortId)
  /-- The timer's TICK (R161). -/
  | tick
  /-- The tick unit's TX_TICK (R162). -/
  | txTick
  /-- The generator's start step (R140). -/
  | genStart
  /-- The generator's end step (R142). -/
  | genEnd
  /-- The environment's DET_CAPTURE(m) (R145). -/
  | capture (m : Word)
  /-- The power goes off and comes on again (R266, R280). -/
  | powerOn
deriving DecidableEq, Repr, Inhabited

end Sys2Proof
end

