-- ==== Sys2Proof/Config.lean ====
section
/-! DEFINITION. The build parameters (R9 to R12, and I22 to I31 of 93_implementation_defined.md) and
the free values. The parameters are OPEN in the spec: State holds them in a field that no step
writes, so that a statement about every state is a statement about every build (log 1). -/

namespace Sys2Proof

/-- The discipline of the cross-core channel, fixed for a build (R12). -/
inductive ChannelMode where
  | fifo
  | ring
deriving DecidableEq, Repr

/-- The build parameters. Their admitted ranges are `Config.wf` (WellFormed.lean). -/
structure Config where
  /-- SYS_CLK_HZ (R9). No rule reads it but its CSR. -/
  sysClkHz : Nat
  /-- MIN_TACKT, the detector latency compensation in ticks (R9). -/
  minTackt : Int
  /-- MIN_INTERVAL_CYCLES, the width that represents code 0 (R9). -/
  minIntervalCycles : Nat
  /-- MIN_PULSE_PERIOD (R9). No rule reads it but its CSR. -/
  minPulsePeriod : Nat
  /-- GEN_QDEPTH (R10). -/
  genQDepth : Nat
  /-- DET_QDEPTH (R10). -/
  detQDepth : Nat
  /-- DB_CAP (R11). -/
  dbCap : Nat
  /-- RING_CAP (R11). -/
  ringCap : Nat
  /-- RING_BATCH (R11). -/
  ringBatch : Nat
  /-- RING_TIMEOUT (R207, R293). No rule reads it. -/
  ringTimeout : Nat
  /-- PLATFORM_BASE (R77). No rule reads it. -/
  platformBase : Nat
  /-- CHANNEL_MODE (R12). -/
  channelMode : ChannelMode
deriving DecidableEq, Repr

/-- DESIGN CHOICE, unsafe (log 1): the build that `State.reset` stands on. The values are those of
95_test_vectors.md section 0, which are the vectors' choice only; the three that section 0 does not
give are the model's. -/
def Config.reference : Config where
  sysClkHz := 60000000
  minTackt := 8
  minIntervalCycles := 200
  minPulsePeriod := 0
  genQDepth := 4
  detQDepth := 4
  dbCap := 8
  ringCap := 4
  ringBatch := 2
  ringTimeout := 0
  platformBase := 0
  channelMode := .fifo

/-- MAX_CODE (R7). -/
abbrev maxCode : Nat := 1024

/-- Free value (log 2): which agent moves next, which command a core presents and what a capture
measures, where the script of the state says nothing (R255, I3, I4, I5). -/
opaque Config.freeEvent : Nat → Event

/-- Free value (log 7): the word that index `j` of an array holds at a reset, where `n` numbers the
array and the reset; `Config.freeWord n j` may be any word (R27, R30, I1, I2). -/
opaque Config.freeWord : Nat → Nat → Word

end Sys2Proof
end

