-- ==== Sys2Proof/WellFormed.lean ====
section
/-! DEFINITION. Well-formedness. A term of `Instr` needs no check: the types of its fields admit
exactly what the encoding admits (an 8-bit CSR address, one of two instances, 32-bit operands). What
can be ill-formed is a build: the ranges of R9, R10, R11 and R38. -/

namespace Sys2Proof

/-- SYS_CLK_HZ is 1 .. 2^32 - 1 (I22, and R38's note). -/
def Config.sysClkOk (c : Config) : Bool := decide (1 ≤ c.sysClkHz) && decide (c.sysClkHz < 2 ^ 32)

/-- `-2^31 <= MIN_TACKT < 2^31` (R9). -/
def Config.minTacktOk (c : Config) : Bool :=
  decide (-2 ^ 31 ≤ c.minTackt) && decide (c.minTackt < 2 ^ 31)

/-- `1 <= MIN_INTERVAL_CYCLES <= 2^32 - 1 - 1023` (R9). -/
def Config.minIntervalOk (c : Config) : Bool :=
  decide (1 ≤ c.minIntervalCycles) && decide (c.minIntervalCycles + 1023 < 2 ^ 32)

/-- MIN_PULSE_PERIOD is a u32 (I25, and R38's note). -/
def Config.minPulsePeriodOk (c : Config) : Bool := decide (c.minPulsePeriod < 2 ^ 32)

/-- `1 <= GEN_QDEPTH <= 15` (R10). -/
def Config.genQDepthOk (c : Config) : Bool := decide (1 ≤ c.genQDepth) && decide (c.genQDepth ≤ 15)

/-- `1 <= DET_QDEPTH <= 15` (R10). -/
def Config.detQDepthOk (c : Config) : Bool := decide (1 ≤ c.detQDepth) && decide (c.detQDepth ≤ 15)

/-- `1 <= DB_CAP <= 65535` (R11). -/
def Config.dbCapOk (c : Config) : Bool := decide (1 ≤ c.dbCap) && decide (c.dbCap ≤ 65535)

/-- `1 <= RING_CAP <= 65535` (R11). -/
def Config.ringCapOk (c : Config) : Bool := decide (1 ≤ c.ringCap) && decide (c.ringCap ≤ 65535)

/-- `1 <= RING_BATCH <= RING_CAP` (R11). -/
def Config.ringBatchOk (c : Config) : Bool :=
  decide (1 ≤ c.ringBatch) && decide (c.ringBatch ≤ c.ringCap)

/-- The build parameters lie in the ranges the spec admits. -/
def Config.wf (c : Config) : Bool :=
  c.sysClkOk && c.minTacktOk && c.minIntervalOk && c.minPulsePeriodOk && c.genQDepthOk &&
    c.detQDepthOk && c.dbCapOk && c.ringCapOk && c.ringBatchOk

end Sys2Proof
end

