-- ==== Sys2Proof/Decode.lean ====
section
/-! DEFINITION. The decoder (R95 to R98) and the encoder after it, with the byte layout of a platform
bridge (R72). -/

namespace Sys2Proof

/-- The SEL class of an opcode (R92). -/
inductive SelClass where
  /-- SEL must be 0x00. -/
  | z
  /-- SEL[0] is the instance and SEL[7:1] must be 0. -/
  | i
  /-- SEL is a CSR address. -/
  | c
deriving DecidableEq, Repr

/-- Why a command word is illegal (R96). Each of these answers ILLEGAL and changes no state. -/
inductive Illegal where
  /-- The OP byte is in no row of R95 (R97). -/
  | reservedOp (op : BitVec 8)
  /-- A class-Z opcode with SEL not 0. -/
  | selNotZero (op sel : BitVec 8)
  /-- A class-I opcode with SEL[7:1] not 0. -/
  | selReserved (op sel : BitVec 8)
  /-- A byte bridge delivered another number of bytes than a transaction has. -/
  | badLength (n : Nat)
deriving DecidableEq, Repr

/-- OP, CMD[15:8] (R90). -/
def Txn.op (t : Txn) : BitVec 8 := t.cmd.extractLsb' 8 8

/-- SEL, CMD[7:0] (R90). -/
def Txn.sel (t : Txn) : BitVec 8 := t.cmd.extractLsb' 0 8

/-- The instance a class-I command names: SEL[0] (R92). -/
def Txn.inst (t : Txn) : Inst := if t.cmd.getLsbD 0 then .rx else .tx

/-- A row of R95, with how many operands its command reads (R93). -/
structure Row where
  mnemonic : String
  cls : SelClass
  op : BitVec 8
  operands : Nat
  build : Txn → Instr

/-- The CMD match of a row: OP in the high byte, SEL 0. -/
def Row.matchBits (r : Row) : BitVec 16 := r.op ++ 0#8

/-- The CMD mask of a row, from its SEL class. -/
def Row.mask (r : Row) : BitVec 16 :=
  match r.cls with
  | .z => 0xFFFF#16
  | .i => 0xFFFE#16
  | .c => 0xFF00#16

/-- The opcode map of R95, in its order. -/
def rows : List Row :=
  [ ⟨"NOP", .z, 0x00, 0, fun _ => .nop⟩,
    ⟨"CSR_READ", .c, 0x01, 0, fun t => .csrRead t.sel⟩,
    ⟨"SET_FORMAT", .z, 0x02, 2, fun t => .setFormat t.a t.b⟩,
    ⟨"STATS_CLEAR", .z, 0x03, 0, fun _ => .statsClear⟩,
    ⟨"PPM_ENCODE", .z, 0x10, 1, fun t => .ppmEncode t.a⟩,
    ⟨"PPM_DECODE", .z, 0x11, 1, fun t => .ppmDecode t.a⟩,
    ⟨"DOWNMIX", .z, 0x12, 2, fun t => .downmix t.a t.b⟩,
    ⟨"PDM_STEP", .z, 0x13, 1, fun t => .pdmStep t.a⟩,
    ⟨"GEN_PUSH", .z, 0x20, 1, fun t => .genPush t.a⟩,
    ⟨"DET_POP", .z, 0x21, 0, fun _ => .detPop⟩,
    ⟨"RX_CORRECT", .z, 0x28, 1, fun t => .rxCorrect t.a⟩,
    ⟨"RX_POLL", .z, 0x29, 0, fun _ => .rxPoll⟩,
    ⟨"DB_BEGIN", .i, 0x30, 0, fun t => .dbBegin t.inst⟩,
    ⟨"DB_PUT", .i, 0x31, 1, fun t => .dbPut t.inst t.a⟩,
    ⟨"DB_COMMIT", .i, 0x32, 0, fun t => .dbCommit t.inst⟩,
    ⟨"DB_GET", .i, 0x33, 0, fun t => .dbGet t.inst⟩,
    ⟨"FIFO_PUSH", .z, 0x40, 1, fun t => .fifoPush t.a⟩,
    ⟨"FIFO_POP", .z, 0x41, 0, fun _ => .fifoPop⟩,
    ⟨"RING_APPEND", .z, 0x48, 1, fun t => .ringAppend t.a⟩,
    ⟨"RING_FLUSH", .z, 0x49, 0, fun _ => .ringFlush⟩,
    ⟨"RING_POP", .z, 0x4A, 0, fun _ => .ringPop⟩ ]

/-- A CMD word selects a row when `(w & mask) = match` (R95). -/
def Row.selects (r : Row) (w : BitVec 16) : Bool := w &&& r.mask == r.matchBits

/-- Why a word that selects no row is illegal (R96): by its OP byte if that is in no row, else by
its SEL field. -/
def illegalReason (t : Txn) : Illegal :=
  match rows.find? (fun r => r.op == t.op) with
  | none => .reservedOp t.op
  | some r =>
    match r.cls with
    | .i => .selReserved t.op t.sel
    | _ => .selNotZero t.op t.sel

/-- The decoder (R98): total, and it rejects by name. -/
def decode (t : Txn) : Except Illegal Instr :=
  match rows.find? (fun r => r.selects t.cmd) with
  | some r => .ok (r.build t)
  | none => .error (illegalReason t)

/-! ## A transaction as bytes -/

/-- The bytes of a transaction behind a platform bridge: CMD, then A, then B, each little-endian
(R72: "byte 0 is bits 7:0"; the order of the three fields is a DESIGN CHOICE, log 11). -/
def Txn.toBytes (t : Txn) : List Byte :=
  [ t.cmd.extractLsb' 0 8, t.cmd.extractLsb' 8 8,
    t.a.extractLsb' 0 8, t.a.extractLsb' 8 8, t.a.extractLsb' 16 8, t.a.extractLsb' 24 8,
    t.b.extractLsb' 0 8, t.b.extractLsb' 8 8, t.b.extractLsb' 16 8, t.b.extractLsb' 24 8 ]

/-- The transaction ten bytes carry. -/
def Txn.ofBytes : List Byte → Option Txn
  | [c0, c1, a0, a1, a2, a3, b0, b1, b2, b3] =>
    some ⟨c1 ++ c0, a3 ++ a2 ++ a1 ++ a0, b3 ++ b2 ++ b1 ++ b0⟩
  | _ => none

/-- The decoder on bytes: total on any list. -/
def decodeBytes (bs : List Byte) : Except Illegal Instr :=
  match Txn.ofBytes bs with
  | some t => decode t
  | none => .error (.badLength bs.length)

/-- The transaction whose CMD, A and B are bits 15:0, 47:16 and 79:48 of the low `nbits` bits of
`w`: the numbering of spec/opcode_table.json, with the operands after the one word the table gives
(log 3). -/
def Txn.ofTableWord (nbits w : Nat) : Txn :=
  let v := w % 2 ^ nbits
  ⟨BitVec.ofNat 16 v, BitVec.ofNat 32 (v / 2 ^ 16), BitVec.ofNat 32 (v / 2 ^ 48)⟩

/-- The instruction the decoder reads from a table word, by way of its bytes. -/
def decodeTableWord (nbits w : Nat) : Option Instr :=
  match decodeBytes (Txn.ofTableWord nbits w).toBytes with
  | .ok i => some i
  | .error _ => none

/-! ## The encoder -/

/-- SEL of a class-I command. -/
def Inst.sel : Inst → BitVec 8
  | .tx => 0x00
  | .rx => 0x01

/-- The transaction of a command. Operands the command ignores encode as 0 (R99). -/
def encode : Instr → Txn
  | .nop => ⟨0x0000, 0, 0⟩
  | .csrRead csr => ⟨0x01#8 ++ csr, 0, 0⟩
  | .setFormat rate depth => ⟨0x0200, rate, depth⟩
  | .statsClear => ⟨0x0300, 0, 0⟩
  | .ppmEncode x => ⟨0x1000, x, 0⟩
  | .ppmDecode c => ⟨0x1100, c, 0⟩
  | .downmix l r => ⟨0x1200, l, r⟩
  | .pdmStep x => ⟨0x1300, x, 0⟩
  | .genPush w => ⟨0x2000, w, 0⟩
  | .detPop => ⟨0x2100, 0, 0⟩
  | .rxCorrect m => ⟨0x2800, m, 0⟩
  | .rxPoll => ⟨0x2900, 0, 0⟩
  | .dbBegin i => ⟨0x30#8 ++ i.sel, 0, 0⟩
  | .dbPut i x => ⟨0x31#8 ++ i.sel, x, 0⟩
  | .dbCommit i => ⟨0x32#8 ++ i.sel, 0, 0⟩
  | .dbGet i => ⟨0x33#8 ++ i.sel, 0, 0⟩
  | .fifoPush w => ⟨0x4000, w, 0⟩
  | .fifoPop => ⟨0x4100, 0, 0⟩
  | .ringAppend w => ⟨0x4800, w, 0⟩
  | .ringFlush => ⟨0x4900, 0, 0⟩
  | .ringPop => ⟨0x4A00, 0, 0⟩

/-- The bytes of a command behind a platform bridge. -/
def encodeBytes (i : Instr) : List Byte := (encode i).toBytes

end Sys2Proof
end

