-- ==== Sys2Proof/Machine/State.lean ====
section
/-! DEFINITION. The state of the block: the record of R20 as plain data, with the observation records
of R41 and the model's own fields (INVENTORY.md lists both). -/

namespace Sys2Proof.Machine

/-- Why a step stops. The spec has no fault (R252); this one stands for the primitives of R70 used
outside their stated precondition, which no run does (log 7). -/
inductive Fault where
  /-- MemRead or MemWrite at an index that is not below the array's length (raised by `memRead` and
  `memWrite`). Safe: the model stops where the spec names no word. -/
  | arrayBounds
deriving DecidableEq, Repr

/-- Why an instruction has no meaning. -/
inductive Refusal where
  /-- An instruction that is not modelled (raised by an arm of `exec`; no arm raises it). Safe. -/
  | notModelled (mnemonic : String)
deriving DecidableEq, Repr

/-- The PCM resolutions (R23, R7). -/
inductive Depth where
  | d16
  | d24
deriving DecidableEq, Repr

/-- The sample rates (R23, R7). -/
inductive Rate where
  | r44100
  | r48000
deriving DecidableEq, Repr

/-- GEN_STATE (R25). -/
inductive GenState where
  | idle
  | low
deriving DecidableEq, Repr

/-- The written words of an internal array: (index, word) pairs with rising indices. -/
abbrev Cells := List (Nat × Word)

/-- An internal array (R70). An index is listed once it is written. Any other index holds what the
array held at reset, which may be any value (R27, R30, I1, I2): the free word of `seed` (log 7). -/
structure Memory where
  seed : Nat
  written : Cells
deriving DecidableEq, Repr

/-- An index of one of two buffers or arrays: `false` is 0 and `true` is 1. -/
abbrev Half := Bool

/-- A buffer of a double-buffer instance (R27). -/
structure Buf where
  payload : Memory
  size : Nat
  pos : Nat
  ready : Bool
deriving DecidableEq, Repr

/-- A double-buffer instance (R27). -/
structure DBuf where
  buf0 : Buf
  buf1 : Buf
  /-- W, the producer's write index. -/
  w : Half
  /-- R, the consumer's read index. -/
  r : Half
  /-- OPEN: the producer has an accepted unit in progress. -/
  isOpen : Bool
deriving DecidableEq, Repr

/-- The ring (R30). -/
structure Ring where
  array0 : Memory
  array1 : Memory
  rsize0 : Nat
  rsize1 : Nat
  semEmpty : Nat
  semFull : Nat
  wi : Half
  ri : Half
  wheld : Bool
  wcount : Nat
  rheld : Bool
  rpos : Nat
deriving DecidableEq, Repr

/-- The delta-sigma modulator (R31). An s32 is held as its 32 bits (R14). -/
structure Pdm where
  i1 : Word
  i2 : Word
  prev : Word
  acc : Word
  cnt : Fin 32
deriving DecidableEq, Repr

/-- The statistics counters (R40), in the order of their addresses 0x10 to 0x1C. -/
inductive CounterId where
  | txCode
  | txSilence
  | tickOverrun
  | rxAccept
  | rxNoise
  | detDrop
  | txdbReject
  | rxdbReject
  | ringDrop
  | converted
  | xfer
  | genPulses
  | detCaptures
deriving DecidableEq, Repr

/-- The values of the counters (R40). -/
structure Counters where
  txCode : Word
  txSilence : Word
  tickOverrun : Word
  rxAccept : Word
  rxNoise : Word
  detDrop : Word
  txdbReject : Word
  rxdbReject : Word
  ringDrop : Word
  converted : Word
  xfer : Word
  genPulses : Word
  detCaptures : Word
deriving DecidableEq, Repr

/-- The status codes that are returned (R250). Codes 10 to 14 are reserved and have no name. -/
inductive Status where
  | ok
  | empty
  | busy
  | pdmWord
  | noise
  | erange
  | eformat
  | emode
  | eseq
  | ecsr
  | illegal
deriving DecidableEq, Repr

/-- A response (R90, R250). -/
structure Response where
  status : Status
  value : Word
deriving DecidableEq, Repr

/-- The hold state of a port (R32). -/
inductive Hold where
  /-- The port has no partly done command. -/
  | none
  /-- An RX_POLL has taken the accepted value `v` and waits for the FIFO slot. -/
  | fwd (v : Word)
deriving DecidableEq, Repr

/-- A port: PORT[p] of R32, the command in progress on it that has not yet taken its step (R256, the
model's own field, log 5), and its responses (R41). -/
structure PortState where
  hold : Hold
  cmd : Option Txn
  responses : List Response
deriving DecidableEq, Repr

/-- The state of the block (R20). The fields after `pulses`, and `cfg`, are the model's own. -/
structure State where
  /-- The build parameters; no step writes them (log 1). -/
  cfg : Config
  fmtDepth : Depth
  fmtRate : Rate
  tickPending : Bool
  genQ : List Word
  genState : GenState
  genCur : Word
  /-- PIN_OUT: `true` is the high level. -/
  pinOut : Bool
  detQ : List Word
  dbTx : DBuf
  dbRx : DBuf
  fifoFull : Bool
  fifoWord : Word
  ring : Ring
  pdm : Pdm
  portA : PortState
  portB : PortState
  counters : Counters
  /-- The widths of the completed pulses, the oldest first (R41). -/
  pulses : List Word
  /-- The port whose step is being taken (log 4). -/
  active : PortId
  /-- The events the outside chooses next (log 2). -/
  script : List Event
  /-- How many free events were drawn (log 2). -/
  draws : Nat
  /-- How many arrays have been given a seed (log 7). -/
  seeds : Nat
deriving DecidableEq, Repr

/-- An array at reset, of which no word is written (R27, R30, R70). -/
def Memory.unwritten (n : Nat) : Memory := ⟨n, []⟩

/-- A buffer at reset (R27), with the free words of seed `n`. -/
def Buf.empty (n : Nat) : Buf := ⟨Memory.unwritten n, 0, 0, false⟩

/-- A double-buffer instance after reset (R27), with the free words of seeds `n` and `n + 1`. -/
def DBuf.empty (n : Nat) : DBuf := ⟨Buf.empty n, Buf.empty (n + 1), false, false, false⟩

/-- The ring after reset (R30), with the free words of seeds `n` and `n + 1`. -/
def Ring.empty (n : Nat) : Ring :=
  ⟨Memory.unwritten n, Memory.unwritten (n + 1), 0, 0, 2, 0, false, false, false, 0, false, 0⟩

/-- The modulator after reset (R31). -/
def Pdm.zero : Pdm := ⟨0, 0, 0, 0, 0⟩

/-- The counters after reset (R40). -/
def Counters.zero : Counters := ⟨0, 0, 0, 0, 0, 0, 0, 0, 0, 0, 0, 0, 0⟩

/-- A port after reset (R32, R280). -/
def PortState.idle : PortState := ⟨.none, none, []⟩

/-- The block of build `c` right after a power-on reset (R280) before which `n` arrays were given a
seed: the six arrays hold new free words (I1, I2, log 7). -/
def State.resetAt (c : Config) (n : Nat) : State where
  cfg := c
  fmtDepth := .d16
  fmtRate := .r48000
  tickPending := false
  genQ := []
  genState := .idle
  genCur := 0
  pinOut := true
  detQ := []
  dbTx := DBuf.empty n
  dbRx := DBuf.empty (n + 2)
  fifoFull := false
  fifoWord := 0
  ring := Ring.empty (n + 4)
  pdm := Pdm.zero
  portA := PortState.idle
  portB := PortState.idle
  counters := Counters.zero
  pulses := []
  active := .a
  script := []
  draws := 0
  seeds := n + 6

/-- The reference build right after its first reset (log 1). -/
def State.reset : State := State.resetAt Config.reference 0

end Sys2Proof.Machine
end

