-- ==== Sys2Proof/Machine/Operands.lean ====
section
/-! DEFINITION. How operands are read and checked, and the functions of the formats: R8, R14, R74,
R110, R111, R160, R165, R185, R232, R262. All arithmetic is on exact integers (R14, R295). -/

namespace Sys2Proof.Machine

/-! ## Words and integers (R14) -/

/-- `sext_32(v)`: the word as a two's-complement number. -/
abbrev sext32 (v : Word) : Int := v.toInt

/-- `to_u32(i) = i mod 2^32`: the stored bit pattern of an integer. -/
def toU32 (i : Int) : Word := BitVec.ofInt 32 i

/-- A natural number as a word, `i mod 2^32`. -/
def natU32 (n : Nat) : Word := BitVec.ofNat 32 n

/-- `a >> 1` on a signed integer: the floor of a/2 (R14, R117). -/
def sar1 (a : Int) : Int := a / 2

/-! ## The format (R8, R23, R262) -/

/-- N, the PCM resolution in bits. -/
def Depth.bits : Depth → Nat
  | .d16 => 16
  | .d24 => 24

/-- `MAX(N) = 2^(N-1) - 1` (R8). -/
def Depth.max (d : Depth) : Int := 2 ^ (d.bits - 1) - 1

/-- `MIN(N) = -2^(N-1)` (R8). -/
def Depth.min (d : Depth) : Int := -2 ^ (d.bits - 1)

/-- The sample rate in Hz. -/
def Rate.hz : Rate → Nat
  | .r44100 => 44100
  | .r48000 => 48000

/-- The tick period in microseconds, an exact rational (R262). Timing only: no step reads it. -/
def Rate.tickPeriodUs (r : Rate) : ℚ := 1000000 / r.hz

/-- The rate SET_FORMAT's operand A names, if it is one of the two (R232). -/
def rateOf (a : Word) : Option Rate :=
  if a = 44100 then some .r44100 else if a = 48000 then some .r48000 else none

/-- The depth SET_FORMAT's operand B names, if it is one of the two (R232). -/
def depthOf (b : Word) : Option Depth :=
  if b = 16 then some .d16 else if b = 24 then some .d24 else none

/-! ## Operand checks (R110, R111, R185) -/

/-- A sample operand is in range: `MIN(N) <= sext_32(X) <= MAX(N)` (R110). -/
def sampleOk (d : Depth) (x : Word) : Bool :=
  decide (d.min ≤ sext32 x) && decide (sext32 x ≤ d.max)

/-- A code operand of PPM_DECODE is in `[0, MAX_CODE]` (R111). -/
def codeOk (c : Word) : Bool := decide (c.toNat ≤ maxCode)

/-- `element_ok(I, A)` (R185): TX holds PPM codes, RX holds PCM samples. -/
def elementOk (i : Inst) (d : Depth) (x : Word) : Bool :=
  match i with
  | .tx => decide (x.toNat ≤ 1023)
  | .rx => sampleOk d x

/-! ## Pulse widths (R160, R165) -/

/-- `width_sent(c) = MIN_INTERVAL_CYCLES + c` (R160), as the u32 that enters GEN_Q. -/
def widthSent (c : Config) (code : Word) : Word := natU32 (c.minIntervalCycles + code.toNat)

/-- The width of silence (R160). -/
def silenceWidth (c : Config) : Word := natU32 c.minIntervalCycles

/-- `corr(m) = m + MIN_TACKT - MIN_INTERVAL_CYCLES`, an exact integer (R165). -/
def corr (c : Config) (m : Word) : Int := (m.toNat : Int) + c.minTackt - (c.minIntervalCycles : Int)

/-- `accept(m) = (0 < corr(m)) and (corr(m) <= MAX_CODE)` (R165). -/
def accept (c : Config) (m : Word) : Bool :=
  decide (0 < corr c m) && decide (corr c m ≤ (maxCode : Int))

end Sys2Proof.Machine
end

