-- ==== Sys2Proof/Machine/Flags.lean ====
section
/-! DEFINITION. The block's own state bits and their codes. The block has no condition codes (R16):
its flags are the ready and open bits, the semaphore counts, the held bits and the tick latch, and
the status code of a response (R250). STATUS, CSR 0x03, shows them together (R33). -/

namespace Sys2Proof.Machine

/-! ## Status codes (R250) -/

/-- The 4-bit code of a status (R250). -/
def Status.code : Status → BitVec 4
  | .ok => 0
  | .empty => 1
  | .busy => 2
  | .pdmWord => 3
  | .noise => 4
  | .erange => 5
  | .eformat => 6
  | .emode => 7
  | .eseq => 8
  | .ecsr => 9
  | .illegal => 15

/-- The response as one 36-bit word: STATUS in bits 35:32, VALUE in bits 31:0 (R90). -/
def Response.word (r : Response) : BitVec 36 := r.status.code ++ r.value

/-! ## Semaphores (R210) -/

/-- "Try-acquire": decrements a non-zero count, and fails at once on zero (R210). -/
def tryAcquire (n : Nat) : Option Nat := if n = 0 then none else some (n - 1)

/-- "Release" increments the count (R210). -/
def releaseSem (n : Nat) : Nat := n + 1

/-! ## Fields of a register -/

/-- A one-bit field at bit `lo`. -/
def bitField (b : Bool) (lo : Nat) : Word := if b then 1#32 <<< lo else 0

/-- A field of `width` bits at bit `lo`; a value too wide for the field keeps its low bits (log 8). -/
def field (v width lo : Nat) : Word := natU32 (v % 2 ^ width) <<< lo

/-- A register of two halves: bits 31:16 and bits 15:0 (R36). -/
def halves (hi lo : Nat) : Word := field hi 16 16 ||| field lo 16 0

/-- CHANNEL_MODE as a bit: 0 is FIFO and 1 is RING (R33, R38). -/
def modeBit : ChannelMode → Bool
  | .fifo => false
  | .ring => true

/-- The bits 4:0 of STATUS for TX and the bits 9:5 for RX (R33). -/
def dbFlags (d : DBuf) (lo : Nat) : Word :=
  bitField d.buf0.ready lo ||| bitField d.buf1.ready (lo + 1) ||| bitField d.w (lo + 2) |||
    bitField d.r (lo + 3) ||| bitField d.isOpen (lo + 4)

/-- The bits 26:19 of STATUS (R33). -/
def ringFlags (r : Ring) : Word :=
  field r.semEmpty 2 19 ||| field r.semFull 2 21 ||| bitField r.wheld 23 ||| bitField r.rheld 24 |||
    bitField r.wi 25 ||| bitField r.ri 26

/-- STATUS, CSR 0x03 (R33). Bit 31 reads 0. -/
def statusWord (s : State) : Word :=
  dbFlags s.dbTx 0 ||| dbFlags s.dbRx 5 ||| field s.genQ.length 4 10 ||| field s.detQ.length 4 14 |||
    bitField s.fifoFull 18 ||| ringFlags s.ring ||| bitField s.tickPending 27 |||
    bitField s.pinOut 28 ||| bitField (s.genState == .low) 29 ||| bitField (modeBit s.cfg.channelMode) 30

end Sys2Proof.Machine
end

