-- ==== Sys2Proof/Machine/Ops.lean ====
section
/-! DEFINITION. The named operations over the block's state: the internal arrays (R70), the ports and
their responses (R250), the counters (R40), the queues (R15), the double buffers (R183, R188), the
ring (R204, R206, R209), and the taking of the block's one interrupt, the tick (R162, R259, R260). -/

namespace Sys2Proof.Machine

/-- The outcome of a step of the block. -/
abbrev Result := Host.Outcome State Fault Refusal

/-- Continue with what a primitive answers, or stop with its fault. -/
def orFault {α : Type} (x : Except Fault α) (f : α → Result) : Result :=
  match x with
  | .ok v => f v
  | .error e => .fault e

/-! ## Internal arrays (R70) -/

/-- The word listed at index `j`. -/
def Cells.lookup : Cells → Nat → Option Word
  | [], _ => none
  | (i, v) :: rest, j => if i = j then some v else Cells.lookup rest j

/-- List `v` at index `j`, keeping the indices in rising order. -/
def Cells.insert : Cells → Nat → Word → Cells
  | [], j, v => [(j, v)]
  | (i, u) :: rest, j, v =>
    if j < i then (j, v) :: (i, u) :: rest
    else if j = i then (j, v) :: rest
    else (i, u) :: Cells.insert rest j v

/-- Every listed index is at least `lo`, and the indices rise strictly. -/
def Cells.risingFrom : Nat → Cells → Bool
  | _, [] => true
  | lo, (i, _) :: rest => decide (lo ≤ i) && Cells.risingFrom (i + 1) rest

/-- The word written at index `j`, if one was written since reset. -/
def Memory.lookup (m : Memory) (j : Nat) : Option Word := Cells.lookup m.written j

/-- `arr[j]`: the word written last at index `j`, or the free word it holds since reset (I1, I2). -/
def Memory.get (m : Memory) (j : Nat) : Word := (m.lookup j).getD (Config.freeWord m.seed j)

/-- `arr[j] <- v`. -/
def Memory.insert (m : Memory) (j : Nat) (v : Word) : Memory :=
  { m with written := Cells.insert m.written j v }

/-- The canonical form: strictly rising indices. What an unlisted index holds is a free value, so an
index is listed exactly where it was written (log 7). -/
def Memory.wf (m : Memory) : Bool := Cells.risingFrom 0 m.written

/-- `MemRead(arr, j)`, which requires `0 <= j < length(arr)` (R70). -/
def memRead (length : Nat) (m : Memory) (j : Nat) : Except Fault Word :=
  if j < length then .ok (m.get j) else .error .arrayBounds

/-- `MemWrite(arr, j, v)`, which requires `0 <= j < length(arr)` (R70). -/
def memWrite (length : Nat) (m : Memory) (j : Nat) (v : Word) : Except Fault Memory :=
  if j < length then .ok (m.insert j v) else .error .arrayBounds

/-! ## Ports and responses (R32, R250, R256) -/

/-- PORT[p]. -/
def State.port (s : State) (p : PortId) : PortState :=
  match p with
  | .a => s.portA
  | .b => s.portB

/-- Replace PORT[p]. -/
def State.setPort (s : State) (p : PortId) (x : PortState) : State :=
  match p with
  | .a => { s with portA := x }
  | .b => { s with portB := x }

/-- `respond(status, value)`: finish the command of the active port with its one response (R250).
The command is no longer in progress. -/
def State.respond (s : State) (st : Status) (v : Word) : State :=
  let x := s.port s.active
  s.setPort s.active { x with cmd := none, responses := x.responses ++ [⟨st, v⟩] }

/-- `PORT[p] <- FWD(v)` for the active port: its RX_POLL is half done (R166). -/
def State.holdForward (s : State) (v : Word) : State :=
  s.setPort s.active { s.port s.active with hold := .fwd v, cmd := none }

/-- A port accepts a command: none is in progress on it (R256). -/
def State.portFree (s : State) (p : PortId) : Bool :=
  decide ((s.port p).hold = .none) && decide ((s.port p).cmd = none)

/-- The command `t` is in progress on port `p` (R256). -/
def State.present (s : State) (p : PortId) (t : Txn) : State :=
  s.setPort p { s.port p with cmd := some t }

/-! ## Counters (R40) -/

/-- The value of a counter. -/
def Counters.get (k : Counters) : CounterId → Word
  | .txCode => k.txCode
  | .txSilence => k.txSilence
  | .tickOverrun => k.tickOverrun
  | .rxAccept => k.rxAccept
  | .rxNoise => k.rxNoise
  | .detDrop => k.detDrop
  | .txdbReject => k.txdbReject
  | .rxdbReject => k.rxdbReject
  | .ringDrop => k.ringDrop
  | .converted => k.converted
  | .xfer => k.xfer
  | .genPulses => k.genPulses
  | .detCaptures => k.detCaptures

/-- One counter up by 1, modulo 2^32. -/
def Counters.bump (k : Counters) : CounterId → Counters
  | .txCode => { k with txCode := k.txCode + 1 }
  | .txSilence => { k with txSilence := k.txSilence + 1 }
  | .tickOverrun => { k with tickOverrun := k.tickOverrun + 1 }
  | .rxAccept => { k with rxAccept := k.rxAccept + 1 }
  | .rxNoise => { k with rxNoise := k.rxNoise + 1 }
  | .detDrop => { k with detDrop := k.detDrop + 1 }
  | .txdbReject => { k with txdbReject := k.txdbReject + 1 }
  | .rxdbReject => { k with rxdbReject := k.rxdbReject + 1 }
  | .ringDrop => { k with ringDrop := k.ringDrop + 1 }
  | .converted => { k with converted := k.converted + 1 }
  | .xfer => { k with xfer := k.xfer + 1 }
  | .genPulses => { k with genPulses := k.genPulses + 1 }
  | .detCaptures => { k with detCaptures := k.detCaptures + 1 }

/-- `count(C)` (R15). -/
def State.count (s : State) (c : CounterId) : State := { s with counters := s.counters.bump c }

/-! ## Queues (R25, R26) -/

/-- GEN_Q has space (R146, R162). -/
def State.genSpace (s : State) : Bool := decide (s.genQ.length < s.cfg.genQDepth)

/-- `GEN_Q.push(w)`. -/
def State.genEnqueue (s : State) (w : Word) : State := { s with genQ := s.genQ ++ [w] }

/-! ## Double buffers (R27, R183, R188) -/

/-- DB[i]. -/
def State.db (s : State) (i : Inst) : DBuf :=
  match i with
  | .tx => s.dbTx
  | .rx => s.dbRx

/-- Replace DB[i]. -/
def State.setDb (s : State) (i : Inst) (d : DBuf) : State :=
  match i with
  | .tx => { s with dbTx := d }
  | .rx => { s with dbRx := d }

/-- `buf[b]`. -/
def DBuf.buf (d : DBuf) (b : Half) : Buf := if b then d.buf1 else d.buf0

/-- Replace `buf[b]`. -/
def DBuf.setBuf (d : DBuf) (b : Half) (x : Buf) : DBuf :=
  if b then { d with buf1 := x } else { d with buf0 := x }

/-- `release(I)`: the consumer's end-of-buffer action (R183). The payload stays. -/
def DBuf.release (d : DBuf) : DBuf :=
  let d' := d.setBuf d.r { d.buf d.r with ready := false, pos := 0, size := 0 }
  { d' with r := !d.r }

/-- The consumer takes the element at the cursor of buffer R, and releases the buffer with its last
element (R162, R184). -/
def DBuf.take (cap : Nat) (d : DBuf) : Except Fault (Word × DBuf) :=
  let b := d.buf d.r
  match memRead cap b.payload b.pos with
  | .error e => .error e
  | .ok v =>
    let d' := d.setBuf d.r { b with pos := b.pos + 1 }
    .ok (v, if b.pos + 1 = b.size then d'.release else d')

/-- `dbreset(I)` (R188): payload words are left as they are. -/
def DBuf.reset (d : DBuf) : DBuf where
  buf0 := { d.buf0 with size := 0, pos := 0, ready := false }
  buf1 := { d.buf1 with size := 0, pos := 0, ready := false }
  w := false
  r := false
  isOpen := false

/-! ## The ring (R204, R206, R209) -/

/-- RING[k]. -/
def Ring.array (r : Ring) (k : Half) : Memory := if k then r.array1 else r.array0

/-- Replace RING[k]. -/
def Ring.setArray (r : Ring) (k : Half) (m : Memory) : Ring :=
  if k then { r with array1 := m } else { r with array0 := m }

/-- RSIZE[k]. -/
def Ring.rsize (r : Ring) (k : Half) : Nat := if k then r.rsize1 else r.rsize0

/-- Replace RSIZE[k]. -/
def Ring.setRsize (r : Ring) (k : Half) (n : Nat) : Ring :=
  if k then { r with rsize1 := n } else { r with rsize0 := n }

/-- `ring_publish()`: the writer's release of "full" (R206). -/
def Ring.publish (r : Ring) : Ring :=
  { r.setRsize r.wi r.wcount with
    semFull := releaseSem r.semFull, wi := !r.wi, wheld := false, wcount := 0 }

/-- `ring_release()`: the reader's release of "empty" (R209). -/
def Ring.release (r : Ring) : Ring :=
  { r.setRsize r.ri 0 with
    semEmpty := releaseSem r.semEmpty, ri := !r.ri, rheld := false, rpos := 0 }

/-- The writer holds an array, acquiring "empty" if it holds none; `none` where the try-acquire
fails (R204). -/
def Ring.acquireEmpty (r : Ring) : Option Ring :=
  if r.wheld then some r
  else (tryAcquire r.semEmpty).map fun n => { r with semEmpty := n, wheld := true, wcount := 0 }

/-- The reader holds an array, acquiring "full" if it holds none; `none` where the try-acquire
fails (R208). -/
def Ring.acquireFull (r : Ring) : Option Ring :=
  if r.rheld then some r
  else (tryAcquire r.semFull).map fun n => { r with semFull := n, rheld := true, rpos := 0 }

/-- The writer, holding array WI, appends one word and publishes a full batch (R204). -/
def Ring.appendHeld (cap batch : Nat) (v : Word) (r : Ring) : Except Fault Ring :=
  match memWrite cap (r.array r.wi) r.wcount v with
  | .error e => .error e
  | .ok m =>
    let r' := { r.setArray r.wi m with wcount := r.wcount + 1 }
    .ok (if r.wcount + 1 = batch then r'.publish else r')

/-- The reader, holding array RI, takes one word and releases an emptied batch (R208). -/
def Ring.takeHeld (cap : Nat) (r : Ring) : Except Fault (Word × Ring) :=
  match memRead cap (r.array r.ri) r.rpos with
  | .error e => .error e
  | .ok v =>
    let r' := { r with rpos := r.rpos + 1 }
    .ok (v, if r.rpos + 1 = r.rsize r.ri then r'.release else r')

/-- `ring_append(v)` (R204): `true` is OK and `false` is DROPPED. -/
def State.ringAppend (s : State) (v : Word) : Except Fault (Bool × State) :=
  match s.ring.acquireEmpty with
  | none => .ok (false, s.count .ringDrop)
  | some r =>
    match r.appendHeld s.cfg.ringCap s.cfg.ringBatch v with
    | .error e => .error e
    | .ok r' => .ok (true, { s with ring := r' })

/-! ## The tick interrupt (R161, R162, R258 to R260)

The block has no exception (R252). Its one interrupt is the tick: pending in TICK_PENDING, always
enabled, and taken by the single step TX_TICK, which saves no state, changes no mode, goes to no
vector and returns by ending. -/

/-- TICK: the timer's event (R161). -/
def State.tick (s : State) : State :=
  if s.tickPending then s.count .tickOverrun else { s with tickPending := true }

/-- TX_TICK is enabled (R162). -/
def State.txTickEnabled (s : State) : Bool := s.tickPending && s.genSpace

/-- TX_TICK, the taking of the tick (R162): one width goes to the generator, of the next code of the
ready TX buffer or of silence. -/
def takeTick (s : State) : Result :=
  let s := { s with tickPending := false }
  let b := s.dbTx.buf s.dbTx.r
  if b.ready && decide (b.pos < b.size) then
    orFault (s.dbTx.take s.cfg.dbCap) fun (c, d) =>
      .next ((({ s with dbTx := d }).genEnqueue (widthSent s.cfg c)).count .txCode)
  else
    let d := if b.ready then s.dbTx.release else s.dbTx
    .next ((({ s with dbTx := d }).genEnqueue (silenceWidth s.cfg)).count .txSilence)

end Sys2Proof.Machine
end

