-- ==== Sys2Proof/Machine/Codec.lean ====
section
/-! DEFINITION. The pulse codec (41_codec.md): the PPM quantizer, the downmix and the PDM modulator. -/

namespace Sys2Proof.Machine

/-- `encode(s, N)` (R112), the decided formula (log 9). -/
def ppmCode (d : Depth) (s : Int) : Int :=
  if 0 ≤ s then 511 + (s * 512) / d.max else 510 - ((-s - 1) * 510) / d.max

/-- `decode(c, N)` (R113), the decided formula (log 9); 1024 saturates to 1023. -/
def ppmSample (d : Depth) (c : Nat) : Int :=
  let c' : Int := (min c 1023 : Nat)
  if 511 ≤ c' then ((c' - 511) * d.max + 511) / 512
  else -1 - ((510 - c') * d.max + 509) / 510

/-- PPM_ENCODE (R115). -/
def execPpmEncode (sample : Word) (s : State) : Result :=
  if sampleOk s.fmtDepth sample then
    .next ((s.count .converted).respond .ok (toU32 (ppmCode s.fmtDepth (sext32 sample))))
  else .next (s.respond .erange 0)

/-- PPM_DECODE (R116). -/
def execPpmDecode (code : Word) (s : State) : Result :=
  if codeOk code then
    .next ((s.count .converted).respond .ok (toU32 (ppmSample s.fmtDepth code.toNat)))
  else .next (s.respond .erange 0)

/-- DOWNMIX (R117): `m = (l >> 1) + (r >> 1)`. -/
def execDownmix (left right : Word) (s : State) : Result :=
  if sampleOk s.fmtDepth left && sampleOk s.fmtDepth right then
    .next (s.respond .ok (toU32 (sar1 (sext32 left) + sar1 (sext32 right))))
  else .next (s.respond .erange 0)

/-- The modulator after one sample, with the sample's bit (R118). `wrap32` is the storing of an exact
sum in 32 bits. ACC and CNT are not touched. -/
def Pdm.integrate (d : Depth) (x : Int) (p : Pdm) : Bool × Pdm :=
  let i1 := toU32 (sext32 p.i1 + x - sext32 p.prev)
  let i2 := toU32 (sext32 p.i2 + sext32 i1 - sext32 p.prev)
  let bit := decide (0 ≤ sext32 i2)
  (bit, { p with i1 := i1, i2 := i2, prev := toU32 (if bit then d.max else -d.max) })

/-- The bit goes to bit CNT of ACC; the 32nd bit completes the word (R119). -/
def Pdm.pack (bit : Bool) (p : Pdm) : Option Word × Pdm :=
  let acc := p.acc ||| bitField bit p.cnt.val
  if p.cnt = 31 then (some acc, { p with acc := 0, cnt := 0 })
  else (none, { p with acc := acc, cnt := p.cnt + 1 })

/-- PDM_STEP (R120). -/
def execPdmStep (sample : Word) (s : State) : Result :=
  if sampleOk s.fmtDepth sample then
    let (bit, p) := s.pdm.integrate s.fmtDepth (sext32 sample)
    match p.pack bit with
    | (some w, p') => .next (({ s with pdm := p' }.count .converted).respond .pdmWord w)
    | (none, p') => .next (({ s with pdm := p' }.count .converted).respond .ok (bitField bit 0))
  else .next (s.respond .erange 0)

end Sys2Proof.Machine
end

