-- ==== Sys2Proof/Machine/Csr.lean ====
section
/-! DEFINITION. The CSR space: 256 read-only registers (R33 to R39, R71). -/

namespace Sys2Proof.Machine

/-- FORMAT, CSR 0x00 (R34). -/
def formatWord (s : State) : Word :=
  bitField (s.fmtDepth == .d24) 0 ||| bitField (s.fmtRate == .r44100) 1

/-- DBTX_B0 to DBRX_B1: the size and the cursor of a buffer (R36). -/
def bufWord (b : Buf) : Word := halves b.size b.pos

/-- `csr_value(csr)`, or `none` where the address is unmapped (R33 to R39). -/
def csrValue (s : State) (csr : BitVec 8) : Option Word :=
  match csr.toNat with
  | 0x00 => some (formatWord s)
  | 0x01 => some (natU32 s.fmtRate.hz)
  | 0x02 => some (natU32 s.fmtDepth.bits)
  | 0x03 => some (statusWord s)
  | 0x04 => some s.pdm.acc
  | 0x05 => some (field s.pdm.cnt.val 5 0)
  | 0x06 => some s.pdm.i1
  | 0x07 => some s.pdm.i2
  | 0x08 => some s.pdm.prev
  | 0x09 => some s.fifoWord
  | 0x0A => some (bufWord s.dbTx.buf0)
  | 0x0B => some (bufWord s.dbTx.buf1)
  | 0x0C => some (bufWord s.dbRx.buf0)
  | 0x0D => some (bufWord s.dbRx.buf1)
  | 0x0E => some (halves s.ring.rsize1 s.ring.rsize0)
  | 0x0F => some (halves s.ring.rpos s.ring.wcount)
  | 0x10 => some s.counters.txCode
  | 0x11 => some s.counters.txSilence
  | 0x12 => some s.counters.tickOverrun
  | 0x13 => some s.counters.rxAccept
  | 0x14 => some s.counters.rxNoise
  | 0x15 => some s.counters.detDrop
  | 0x16 => some s.counters.txdbReject
  | 0x17 => some s.counters.rxdbReject
  | 0x18 => some s.counters.ringDrop
  | 0x19 => some s.counters.converted
  | 0x1A => some s.counters.xfer
  | 0x1B => some s.counters.genPulses
  | 0x1C => some s.counters.detCaptures
  | 0x20 => some (natU32 s.cfg.minIntervalCycles)
  | 0x21 => some (toU32 s.cfg.minTackt)
  | 0x22 => some (natU32 maxCode)
  | 0x23 => some (natU32 s.cfg.minPulsePeriod)
  | 0x24 => some (natU32 s.cfg.sysClkHz)
  | 0x25 => some (natU32 s.cfg.genQDepth)
  | 0x26 => some (natU32 s.cfg.detQDepth)
  | 0x27 => some (natU32 s.cfg.dbCap)
  | 0x28 => some (natU32 s.cfg.ringCap)
  | 0x29 => some (natU32 s.cfg.ringBatch)
  | 0x2A => some (bitField (modeBit s.cfg.channelMode) 0)
  | _ => none

end Sys2Proof.Machine
end

