-- ==== Sys2Proof/Machine/Control.lean ====
section
/-! DEFINITION. The control commands (46_control.md). -/

namespace Sys2Proof.Machine

/-- NOP (R230). -/
def execNop (s : State) : Result := .next (s.respond .ok 0)

/-- CSR_READ (R231). -/
def execCsrRead (csr : BitVec 8) (s : State) : Result :=
  match csrValue s csr with
  | some v => .next (s.respond .ok v)
  | none => .next (s.respond .ecsr 0)

/-- The state an accepted SET_FORMAT leaves: the format, both double buffers and the tick latch, and
nothing else (R232, R283). -/
def State.applyFormat (s : State) (rate : Rate) (depth : Depth) : State :=
  { s with
    fmtRate := rate, fmtDepth := depth, dbTx := s.dbTx.reset, dbRx := s.dbRx.reset,
    tickPending := false }

/-- SET_FORMAT (R232): all or nothing. -/
def execSetFormat (rate depth : Word) (s : State) : Result :=
  match rateOf rate, depthOf depth with
  | some r, some d => .next ((s.applyFormat r d).respond .ok 0)
  | _, _ => .next (s.respond .eformat 0)

/-- STATS_CLEAR (R233). -/
def execStatsClear (s : State) : Result :=
  .next ({ s with counters := Counters.zero }.respond .ok 0)

end Sys2Proof.Machine
end

