-- ==== Sys2Proof/Machine/Dbuf.lean ====
section
/-! DEFINITION. The double buffer with ready flags (44_dbuf.md). -/

namespace Sys2Proof.Machine

/-- The counter of rejected units of an instance (R180, R40). -/
def rejectCounter : Inst → CounterId
  | .tx => .txdbReject
  | .rx => .rxdbReject

/-- DB_BEGIN (R180). -/
def execDbBegin (i : Inst) (s : State) : Result :=
  let d := s.db i
  if d.isOpen then .next (s.respond .eseq 0)
  else if (d.buf d.w).ready then .next ((s.count (rejectCounter i)).respond .busy 0)
  else .next ((s.setDb i { d with isOpen := true }).respond .ok (bitField d.w 0))

/-- DB_PUT (R181). -/
def execDbPut (i : Inst) (element : Word) (s : State) : Result :=
  let d := s.db i
  let b := d.buf d.w
  if !d.isOpen then .next (s.respond .eseq 0)
  else if !elementOk i s.fmtDepth element then .next (s.respond .erange 0)
  else if b.size = s.cfg.dbCap then .next (s.respond .erange (natU32 s.cfg.dbCap))
  else
    orFault (memWrite s.cfg.dbCap b.payload b.size element) fun m =>
      .next ((s.setDb i (d.setBuf d.w { b with payload := m, size := b.size + 1 })).respond .ok
        (natU32 (b.size + 1)))

/-- DB_COMMIT (R182). An empty unit closes and publishes nothing. -/
def execDbCommit (i : Inst) (s : State) : Result :=
  let d := s.db i
  let b := d.buf d.w
  if !d.isOpen then .next (s.respond .eseq 0)
  else if b.size = 0 then .next ((s.setDb i { d with isOpen := false }).respond .empty 0)
  else
    let d' := d.setBuf d.w { b with pos := 0, ready := true }
    .next ((s.setDb i { d' with isOpen := false, w := !d.w }).respond .ok (natU32 b.size))

/-- DB_GET (R184). Only the tick unit consumes TX. -/
def execDbGet (i : Inst) (s : State) : Result :=
  match i with
  | .tx => .next (s.respond .emode 0)
  | .rx =>
    let b := s.dbRx.buf s.dbRx.r
    if !b.ready then .next (s.respond .empty 0)
    else if b.size ≤ b.pos then .next ({ s with dbRx := s.dbRx.release }.respond .empty 0)
    else
      orFault (s.dbRx.take s.cfg.dbCap) fun (v, d) => .next ({ s with dbRx := d }.respond .ok v)

end Sys2Proof.Machine
end

