-- ==== Sys2Proof/Machine/Pulse.lean ====
section
/-! DEFINITION. The pulse generator and the pulse detector (42_pulse.md): their steps, and the
commands that reach them. -/

namespace Sys2Proof.Machine

/-- The generator's start step, enabled when it is idle and GEN_Q holds a width (R140). -/
def State.genStart (s : State) : State :=
  match s.genState, s.genQ with
  | .idle, w :: rest => { s with genQ := rest, genCur := w, genState := .low, pinOut := false }
  | _, _ => s

/-- The generator's end step, enabled in the low phase (R142). -/
def State.genEnd (s : State) : State :=
  match s.genState with
  | .low =>
    { s with pinOut := true, genState := .idle, pulses := s.pulses ++ [s.genCur] }.count .genPulses
  | .idle => s

/-- DET_CAPTURE(m) (R145): a full queue drops the newest entry. -/
def State.capture (s : State) (m : Word) : State :=
  let s := s.count .detCaptures
  if s.detQ.length < s.cfg.detQDepth then { s with detQ := s.detQ ++ [m] } else s.count .detDrop

/-- GEN_PUSH (R146). While GEN_Q is full the command waits: the state is unchanged (R256). -/
def execGenPush (width : Word) (s : State) : Result :=
  if width = 0 then .next (s.respond .erange 0)
  else if s.genSpace then .next ((s.genEnqueue width).respond .ok 0)
  else .next s

/-- DET_POP (R147). -/
def execDetPop (s : State) : Result :=
  match s.detQ with
  | [] => .next (s.respond .empty 0)
  | m :: rest => .next ({ s with detQ := rest }.respond .ok m)

end Sys2Proof.Machine
end

