-- ==== Sys2Proof/Machine/Scheduler.lean ====
section
/-! DEFINITION. The receive correction (43_scheduler.md). The transmit scheduler's steps TICK and
TX_TICK are in Ops.lean. -/

namespace Sys2Proof.Machine

/-- Forward an accepted value over the cross-core channel of the build (R166): the FIFO slot if it is
free, else the port holds; or the ring, which drops when it is saturated. -/
def State.forward (s : State) (c : Word) : Result :=
  match s.cfg.channelMode with
  | .fifo =>
    if s.fifoFull then .next (s.holdForward c)
    else .next ({ s with fifoFull := true, fifoWord := c }.respond .ok c)
  | .ring =>
    orFault (s.ringAppend c) fun (appended, s') =>
      .next (s'.respond (if appended then .ok else .busy) c)

/-- RX_POLL (R166). -/
def execRxPoll (s : State) : Result :=
  match s.detQ with
  | [] => .next (s.respond .empty 0)
  | m :: rest =>
    let s' := { s with detQ := rest }
    if accept s.cfg m then (s'.count .rxAccept).forward (toU32 (corr s.cfg m))
    else .next ((s'.count .rxNoise).respond .noise m)

/-- The completion of a held RX_POLL of port `p` with value `v`, enabled when the slot is free (R168).
The response is that of the RX_POLL. -/
def State.forwardDone (s : State) (p : PortId) (v : Word) : State :=
  if s.fifoFull then s
  else
    let s := { s with fifoFull := true, fifoWord := v, active := p }
    (s.setPort p { s.port p with hold := .none }).respond .ok v

/-- RX_CORRECT (R167). VALUE is the low 32 bits of corr(A). -/
def execRxCorrect (measured : Word) (s : State) : Result :=
  let v := toU32 (corr s.cfg measured)
  if accept s.cfg measured then .next (s.respond .ok v) else .next (s.respond .noise v)

end Sys2Proof.Machine
end

