-- ==== Sys2Proof/Machine/Xcore.lean ====
section
/-! DEFINITION. The cross-core channel (45_xcore.md): the single-slot FIFO and the semaphore-gated
double ring. A command of the discipline the build does not have answers EMODE (R200). -/

namespace Sys2Proof.Machine

/-- FIFO_PUSH (R201). While the slot is full the command waits: the state is unchanged (R256). -/
def execFifoPush (word : Word) (s : State) : Result :=
  match s.cfg.channelMode with
  | .ring => .next (s.respond .emode 0)
  | .fifo =>
    if s.fifoFull then .next s
    else .next ({ s with fifoWord := word, fifoFull := true }.respond .ok 0)

/-- FIFO_POP (R202). While the slot is empty the command waits: the state is unchanged (R256). -/
def execFifoPop (s : State) : Result :=
  match s.cfg.channelMode with
  | .ring => .next (s.respond .emode 0)
  | .fifo =>
    if s.fifoFull then .next (({ s with fifoFull := false }.count .xfer).respond .ok s.fifoWord)
    else .next s

/-- RING_APPEND (R205). VALUE is the batch count after the append. -/
def execRingAppend (word : Word) (s : State) : Result :=
  match s.cfg.channelMode with
  | .fifo => .next (s.respond .emode 0)
  | .ring =>
    orFault (s.ringAppend word) fun (appended, s') =>
      if appended then .next (s'.respond .ok (natU32 s'.ring.wcount))
      else .next (s'.respond .busy 0)

/-- RING_FLUSH (R207). -/
def execRingFlush (s : State) : Result :=
  match s.cfg.channelMode with
  | .fifo => .next (s.respond .emode 0)
  | .ring =>
    if s.ring.wheld && decide (0 < s.ring.wcount) then
      .next ({ s with ring := s.ring.publish }.respond .ok (natU32 s.ring.wcount))
    else .next (s.respond .empty 0)

/-- RING_POP (R208). -/
def execRingPop (s : State) : Result :=
  match s.cfg.channelMode with
  | .fifo => .next (s.respond .emode 0)
  | .ring =>
    match s.ring.acquireFull with
    | none => .next (s.respond .empty 0)
    | some r =>
      orFault (r.takeHeld s.cfg.ringCap) fun (v, r') =>
        .next (({ s with ring := r' }.count .xfer).respond .ok v)

end Sys2Proof.Machine
end

