-- ==== Sys2Proof/Machine/Dispatch.lean ====
section
/-! DEFINITION. The meaning of each command (R98): one arm a constructor. -/

namespace Sys2Proof.Machine

def exec (i : Instr) (s : State) : Host.Outcome State Fault Refusal :=
  match i with
  | .nop => Sys2Proof.Machine.execNop s
  | .csrRead csr => Sys2Proof.Machine.execCsrRead csr s
  | .setFormat rate depth => Sys2Proof.Machine.execSetFormat rate depth s
  | .statsClear => Sys2Proof.Machine.execStatsClear s
  | .ppmEncode sample => Sys2Proof.Machine.execPpmEncode sample s
  | .ppmDecode code => Sys2Proof.Machine.execPpmDecode code s
  | .downmix left right => Sys2Proof.Machine.execDownmix left right s
  | .pdmStep sample => Sys2Proof.Machine.execPdmStep sample s
  | .genPush width => Sys2Proof.Machine.execGenPush width s
  | .detPop => Sys2Proof.Machine.execDetPop s
  | .rxCorrect measured => Sys2Proof.Machine.execRxCorrect measured s
  | .rxPoll => Sys2Proof.Machine.execRxPoll s
  | .dbBegin inst => Sys2Proof.Machine.execDbBegin inst s
  | .dbPut inst element => Sys2Proof.Machine.execDbPut inst element s
  | .dbCommit inst => Sys2Proof.Machine.execDbCommit inst s
  | .dbGet inst => Sys2Proof.Machine.execDbGet inst s
  | .fifoPush word => Sys2Proof.Machine.execFifoPush word s
  | .fifoPop => Sys2Proof.Machine.execFifoPop s
  | .ringAppend word => Sys2Proof.Machine.execRingAppend word s
  | .ringFlush => Sys2Proof.Machine.execRingFlush s
  | .ringPop => Sys2Proof.Machine.execRingPop s

end Sys2Proof.Machine
end

