-- ==== Sys2Proof/Machine/Agents.lean ====
section
/-! DEFINITION. The agents of the block and how their steps interleave (R254 to R257). -/

namespace Sys2Proof.Machine

/-- A port runs its command in progress: decode it, then execute its rule, or answer ILLEGAL (R98,
R96). -/
def runTxn (p : PortId) (t : Txn) (s : State) : Result :=
  match decode t with
  | .ok i => exec i { s with active := p }
  | .error _ => .next ({ s with active := p }.respond .illegal 0)

/-- The step of a port (R254): none while TX_TICK is enabled (R255); else the completion of its held
RX_POLL (R168), or its command in progress. -/
def portStep (p : PortId) (s : State) : Result :=
  if s.txTickEnabled then .next s
  else
    match (s.port p).hold, (s.port p).cmd with
    | .fwd v, _ => .next (s.forwardDone p v)
    | .none, some t => runTxn p t s
    | .none, none => .next s

/-- The power-on reset (R280): the build parameters stay, the arrays hold new free words, and the
world's script is not the block's. -/
def State.powerOn (s : State) : State :=
  { State.resetAt s.cfg s.seeds with script := s.script, draws := s.draws }

/-- One event (R254). An agent whose step is not enabled changes nothing (log 6); a port that is not
free accepts no command (R256). -/
def runEvent (e : Event) (s : State) : Result :=
  match e with
  | .command p t => if s.portFree p then portStep p (s.present p t) else .next s
  | .proceed p => portStep p s
  | .tick => .next s.tick
  | .txTick => if s.txTickEnabled then takeTick s else .next s
  | .genStart => .next s.genStart
  | .genEnd => .next s.genEnd
  | .capture m => .next (s.capture m)
  | .powerOn => .next s.powerOn

/-- The next event of the interleaving, and the state that has used it up: the head of the script, or
a free event where the script is empty (R255, log 2). -/
def nextEvent (s : State) : Event × State :=
  match s.script with
  | e :: rest => (e, { s with script := rest })
  | [] => (Config.freeEvent s.draws, { s with draws := s.draws + 1 })

/-- One step of the block: the next event, run. -/
def takeStep (s : State) : Result := runEvent (nextEvent s).1 (nextEvent s).2

/-- `s` with the command `t` about to be presented on port A: it is the next event of the script,
port A is free, and no tick is pending, which would go first (R255; log 3). -/
def State.placeCommand (s : State) (t : Txn) : State :=
  { s with
    script := .command .a t :: s.script, tickPending := false,
    portA := { s.portA with hold := .none, cmd := none } }

end Sys2Proof.Machine
end

