-- ==== Sys2Proof/Machine/Step.lean ====
section
/-! DEFINITION. One step of the block (Agents.lean says what it is), and the placing of a command
where the next step takes it. -/

namespace Sys2Proof.Machine

/-- One step of the block. -/
def step (s : State) : Host.Outcome State Fault Refusal := takeStep s

/-- `s` with the table word `w` presented on port A by the very next step (log 3). -/
def State.withFetchWord (s : State) (nbits w : Nat) : State :=
  s.placeCommand (Txn.ofTableWord nbits w)

end Sys2Proof.Machine
end

