-- ==== Sys2Proof/Machine/Asm.lean ====
section
/-! DEFINITION. The assembler syntax (R99) and the pseudo-instructions (R100), the spec's own
notation for commands. The machine reads none of it. What R99 leaves open is fixed in log 10. -/

namespace Sys2Proof.Machine

/-! ## Pseudo-instructions (R100) -/

/-- The pseudo-instructions of R100. -/
inductive Pseudo where
  /-- `SEND_CODE c`, with c in 0..1023. -/
  | sendCode (c : Fin 1024)
  /-- `SILENCE`. -/
  | silence
  /-- `RD_STATUS`. -/
  | rdStatus
  /-- `DB_UNIT i, v1, ..., vn`. R100 gives no range for n; that n may be 0 is the model's choice
  (DESIGN CHOICE, log 10). -/
  | dbUnit (i : Inst) (vs : List Word)
  /-- `CH_SEND v`. -/
  | chSend (v : Word)
  /-- `CH_RECV`. -/
  | chRecv
deriving DecidableEq, Repr

/-- The commands a pseudo-instruction expands into, in a build (R100). -/
def Pseudo.expand (c : Config) : Pseudo → List Instr
  | .sendCode k => [.genPush (natU32 (c.minIntervalCycles + k.val))]
  | .silence => [.genPush (natU32 c.minIntervalCycles)]
  | .rdStatus => [.csrRead 0x03]
  | .dbUnit i vs => [.dbBegin i] ++ vs.map (.dbPut i ·) ++ [.dbCommit i]
  | .chSend v =>
    match c.channelMode with
    | .fifo => [.fifoPush v]
    | .ring => [.ringAppend v]
  | .chRecv =>
    match c.channelMode with
    | .fifo => [.fifoPop]
    | .ring => [.ringPop]

/-! ## Numbers and names -/

/-- The value of a decimal digit. -/
def digitOf (c : Char) : Option Nat :=
  if '0' ≤ c ∧ c ≤ '9' then some (c.toNat - '0'.toNat) else none

/-- The value of a hexadecimal digit. -/
def hexDigitOf (c : Char) : Option Nat :=
  if 'a' ≤ c ∧ c ≤ 'f' then some (c.toNat - 'a'.toNat + 10)
  else if 'A' ≤ c ∧ c ≤ 'F' then some (c.toNat - 'A'.toNat + 10)
  else digitOf c

/-- The number that digits in a base write after the digits already read. -/
def readDigits (base : Nat) (digit : Char → Option Nat) : Nat → List Char → Option Nat
  | acc, [] => some acc
  | acc, c :: rest =>
    match digit c with
    | some d => readDigits base digit (base * acc + d) rest
    | none => none

/-- A decimal or 0x-hex number. -/
def readNat : List Char → Option Nat
  | [] => none
  | '0' :: 'x' :: c :: rest => readDigits 16 hexDigitOf 0 (c :: rest)
  | c :: rest => readDigits 10 digitOf 0 (c :: rest)

/-- An operand: a number below 2^32, or a negative decimal, written as its s32 bit pattern (R99). -/
def readWord : List Char → Option Word
  | '-' :: c :: rest =>
    match readDigits 10 digitOf 0 (c :: rest) with
    | some n => if n ≤ 2 ^ 31 then some (toU32 (-(n : Int))) else none
    | none => none
  | cs =>
    match readNat cs with
    | some n => if n < 2 ^ 32 then some (natU32 n) else none
    | none => none

/-- Every operand of a list. -/
def readWords : List (List Char) → Option (List Word)
  | [] => some []
  | cs :: rest =>
    match readWord cs, readWords rest with
    | some w, some ws => some (w :: ws)
    | _, _ => none

/-- `tx` or `rx`. -/
def readInst (cs : List Char) : Option Inst :=
  if cs = "tx".toList then some .tx else if cs = "rx".toList then some .rx else none

/-- The CSR names of 10_state.md with their addresses (R33 to R38, R40). -/
def csrNames : List (String × Nat) :=
  [("FORMAT", 0x00), ("RATE_HZ", 0x01), ("DEPTH_BITS", 0x02), ("STATUS", 0x03), ("PDM_ACC", 0x04),
    ("PDM_CNT", 0x05), ("PDM_I1", 0x06), ("PDM_I2", 0x07), ("PDM_PREV", 0x08), ("FIFO_WORD", 0x09),
    ("DBTX_B0", 0x0A), ("DBTX_B1", 0x0B), ("DBRX_B0", 0x0C), ("DBRX_B1", 0x0D),
    ("RING_SIZES", 0x0E), ("RING_CURSORS", 0x0F)] ++
  [("CNT_TX_CODE", 0x10), ("CNT_TX_SILENCE", 0x11), ("CNT_TICK_OVERRUN", 0x12),
    ("CNT_RX_ACCEPT", 0x13), ("CNT_RX_NOISE", 0x14), ("CNT_DET_DROP", 0x15),
    ("CNT_TXDB_REJECT", 0x16), ("CNT_RXDB_REJECT", 0x17), ("CNT_RING_DROP", 0x18),
    ("CNT_CONVERTED", 0x19), ("CNT_XFER", 0x1A), ("CNT_GEN_PULSES", 0x1B),
    ("CNT_DET_CAPTURES", 0x1C)] ++
  [("MIN_INTERVAL_CYCLES", 0x20), ("MIN_TACKT", 0x21), ("MAX_CODE", 0x22),
    ("MIN_PULSE_PERIOD", 0x23), ("SYS_CLK_HZ", 0x24), ("GEN_QDEPTH", 0x25), ("DET_QDEPTH", 0x26),
    ("DB_CAP", 0x27), ("RING_CAP", 0x28), ("RING_BATCH", 0x29), ("CHANNEL_MODE", 0x2A)]

/-- A CSR name, or a number 0x00 to 0xFF (R99). -/
def readCsr (cs : List Char) : Option (BitVec 8) :=
  match csrNames.find? (fun e => e.1.toList == cs) with
  | some e => some (BitVec.ofNat 8 e.2)
  | none =>
    match readNat cs with
    | some n => if n < 256 then some (BitVec.ofNat 8 n) else none
    | none => none

/-! ## Lines -/

/-- A line without its comment, which `;` starts (R99). -/
def withoutComment (cs : List Char) : List Char := cs.takeWhile (· ≠ ';')

/-- A space or a tab. -/
def isBlank (c : Char) : Bool := c == ' ' || c == '\t'

/-- The characters without blanks before the first and after the last of the others. -/
def trimBlanks (cs : List Char) : List Char :=
  ((cs.dropWhile isBlank).reverse.dropWhile isBlank).reverse

/-- The parts of a list of characters between its commas. -/
def splitCommas : List Char → List (List Char)
  | [] => [[]]
  | c :: rest =>
    if c = ',' then [] :: splitCommas rest
    else
      match splitCommas rest with
      | [] => [[c]]
      | part :: parts => (c :: part) :: parts

/-- The operand fields of a line after its mnemonic: none where nothing stands there. -/
def operandFields (cs : List Char) : List (List Char) :=
  if trimBlanks cs = [] then [] else (splitCommas cs).map trimBlanks

/-- The transaction with the operands a command reads; the others encode as 0 (R99). -/
def txnWith (cmd : BitVec 16) (operands : Nat) (fields : List (List Char)) : Option Txn :=
  match operands, readWords fields with
  | 0, some [] => some ⟨cmd, 0, 0⟩
  | 1, some [a] => some ⟨cmd, a, 0⟩
  | 2, some [a, b] => some ⟨cmd, a, b⟩
  | _, _ => none

/-- `MNEMONIC [inst | csr] [, a [, b]]` for a command of R95 (R99). -/
def assembleRow (r : Row) (fields : List (List Char)) : Option Txn :=
  match r.cls, fields with
  | .z, fs => txnWith r.matchBits r.operands fs
  | .i, f :: fs =>
    match readInst f with
    | some i => txnWith (r.op ++ i.sel) r.operands fs
    | none => none
  | .c, f :: fs =>
    match readCsr f with
    | some csr => txnWith (r.op ++ csr) r.operands fs
    | none => none
  | _, [] => none

/-- A pseudo-instruction of R100 by its name and operand fields. `DB_UNIT i` without an element is
read as DB_BEGIN i ; DB_COMMIT i (DESIGN CHOICE, log 10). -/
def readPseudo (name : List Char) (fields : List (List Char)) : Option Pseudo :=
  if name = "SEND_CODE".toList then
    match readWords fields with
    | some [w] => if h : w.toNat < 1024 then some (.sendCode ⟨w.toNat, h⟩) else none
    | _ => none
  else if name = "SILENCE".toList then if fields = [] then some .silence else none
  else if name = "RD_STATUS".toList then if fields = [] then some .rdStatus else none
  else if name = "DB_UNIT".toList then
    match fields with
    | f :: fs =>
      match readInst f, readWords fs with
      | some i, some vs => some (.dbUnit i vs)
      | _, _ => none
    | [] => none
  else if name = "CH_SEND".toList then
    match readWords fields with
    | some [v] => some (.chSend v)
    | _ => none
  else if name = "CH_RECV".toList then if fields = [] then some .chRecv else none
  else none

/-- The transactions a line stands for in a build: none for an empty line, one for a command, and
the expansion of a pseudo-instruction (R99, R100). -/
def assemble (c : Config) (line : String) : Option (List Txn) :=
  let cs := trimBlanks (withoutComment line.toList)
  let name := cs.takeWhile (fun x => !isBlank x)
  let fields := operandFields (cs.dropWhile (fun x => !isBlank x))
  if cs = [] then some []
  else
    match rows.find? (fun r => r.mnemonic.toList == name) with
    | some r => (assembleRow r fields).map ([·])
    | none => (readPseudo name fields).map fun p => (p.expand c).map encode

end Sys2Proof.Machine
end

