-- ==== Sys2Proof/Safety.lean ====
section
/-! DEFINITION. The terms claims are stated in: what holds of every state of a run (`State.wf`), who
owns a buffer, what a channel holds, when a command waits, and the premises the spec lets a claim
assume of the world (R148, R285). The machine reads none of it. -/

namespace Sys2Proof.Machine

/-! ## Outcomes -/

/-- The outcome with its next state, if it has one, changed by `f`. -/
def mapNext (f : State → State) (x : Result) : Result :=
  match x with
  | .next t => .next (f t)
  | .fault e => .fault e
  | .refused r => .refused r

/-- The last response of port `p` in `t` is `r`, and the ones before it are those of `s`. -/
def answered (p : PortId) (s t : State) (r : Response) : Prop :=
  (t.port p).responses = (s.port p).responses ++ [r]

/-- The statuses a command may answer, the column "returned by" of R250. -/
def mayAnswer (i : Instr) : List Status :=
  match i with
  | .nop => [.ok]
  | .csrRead _ => [.ok, .ecsr]
  | .setFormat _ _ => [.ok, .eformat]
  | .statsClear => [.ok]
  | .ppmEncode _ => [.ok, .erange]
  | .ppmDecode _ => [.ok, .erange]
  | .downmix _ _ => [.ok, .erange]
  | .pdmStep _ => [.ok, .pdmWord, .erange]
  | .genPush _ => [.ok, .erange]
  | .detPop => [.ok, .empty]
  | .rxCorrect _ => [.ok, .noise]
  | .rxPoll => [.ok, .empty, .busy, .noise]
  | .dbBegin _ => [.ok, .busy, .eseq]
  | .dbPut _ _ => [.ok, .erange, .eseq]
  | .dbCommit _ => [.ok, .empty, .eseq]
  | .dbGet _ => [.ok, .empty, .emode]
  | .fifoPush _ => [.ok, .emode]
  | .fifoPop => [.ok, .emode]
  | .ringAppend _ => [.ok, .busy, .emode]
  | .ringFlush => [.ok, .empty, .emode]
  | .ringPop => [.ok, .empty, .emode]

/-! ## Arrays -/

/-- Every listed index is below `cap`. -/
def Memory.below (cap : Nat) (m : Memory) : Bool := m.written.all fun e => decide (e.1 < cap)

/-- An array of length `cap` in its canonical form. -/
def Memory.fits (cap : Nat) (m : Memory) : Bool := Memory.wf m && Memory.below cap m

/-- Every word below index `n` has been written, and `p` holds of it. -/
def Memory.holdsBelow (m : Memory) (n : Nat) (p : Word → Bool) : Bool :=
  (List.range n).all fun j =>
    match Memory.lookup m j with
    | some v => p v
    | none => false

/-- The words at indices `lo` to `hi - 1`. -/
def Memory.slice (m : Memory) (lo hi : Nat) : List Word :=
  (List.range (hi - lo)).map fun k => m.get (lo + k)

/-! ## The double buffer (R28) -/

/-- R28 (1) and (2) for one buffer, with what R184 and R162 rely on: the words below `size` are
written, and a ready buffer has an element left. -/
def bufWf (cap : Nat) (p : Word → Bool) (b : Buf) : Bool :=
  Memory.fits cap b.payload && Memory.holdsBelow b.payload b.size p && decide (b.pos ≤ b.size) &&
    decide (b.size ≤ cap) && (b.ready || decide (b.pos = 0)) && (!b.ready || decide (b.pos < b.size))

/-- R28 (5) for buffer `b`. -/
def idleBufEmpty (d : DBuf) (b : Half) : Bool :=
  (d.buf b).ready || (d.isOpen && b == d.w) || decide ((d.buf b).size = 0)

/-- R28 (6): the ready buffers start at R, and W is the one after the last of them. -/
def orderWf (d : DBuf) : Bool :=
  match (d.buf d.r).ready, (d.buf (!d.r)).ready with
  | true, true => d.w == d.r
  | true, false => d.w == !d.r
  | false, false => d.w == d.r
  | false, true => false

/-- The invariants of R28 for an instance whose elements satisfy `p`. -/
def dbWf (cap : Nat) (p : Word → Bool) (d : DBuf) : Bool :=
  bufWf cap p d.buf0 && bufWf cap p d.buf1 && (!d.isOpen || !(d.buf d.w).ready) &&
    idleBufEmpty d false && idleBufEmpty d true && orderWf d

/-- The producer owns buffer `b` (R28 (4)). -/
def producerOwns (d : DBuf) (b : Half) : Prop := b = d.w ∧ (d.buf b).ready = false

/-- The consumer owns buffer `b` (R28 (4)). -/
def consumerOwns (d : DBuf) (b : Half) : Prop := b = d.r ∧ (d.buf b).ready = true

/-- The elements of a buffer from its cursor on. -/
def Buf.remaining (b : Buf) : List Word := Memory.slice b.payload b.pos b.size

/-- The published elements not yet consumed, the oldest first. -/
def DBuf.unread (d : DBuf) : List Word :=
  if (d.buf d.r).ready then
    (d.buf d.r).remaining ++ (if (d.buf (!d.r)).ready then (d.buf (!d.r)).remaining else [])
  else []

/-- The elements of the open unit. -/
def DBuf.openUnit (d : DBuf) : List Word :=
  if d.isOpen then Memory.slice (d.buf d.w).payload 0 (d.buf d.w).size else []

/-- The scheduler is *draining* rather than *idle-tick* (R163). -/
def State.draining (s : State) : Bool := (s.dbTx.buf s.dbTx.r).ready

/-! ## The ring (R30, R211) -/

/-- How many arrays the reader holds or may take. -/
def Ring.inFlight (r : Ring) : Nat := r.rheld.toNat + r.semFull

/-- Array `k` is published and not yet released. -/
def Ring.published (r : Ring) (k : Half) : Bool :=
  decide (2 ≤ r.inFlight) || (decide (r.inFlight = 1) && k == r.ri)

/-- A published array has a batch, every word of which is written; another has size 0. -/
def Ring.arrayWf (cap : Nat) (r : Ring) (k : Half) : Bool :=
  Memory.fits cap (r.array k) &&
    (if r.published k then
      decide (1 ≤ r.rsize k) && decide (r.rsize k ≤ cap) &&
        Memory.holdsBelow (r.array k) (r.rsize k) (fun _ => true)
    else decide (r.rsize k = 0))

/-- The writer's side: a held batch is neither empty nor full, and its words are written. -/
def Ring.writerWf (batch : Nat) (r : Ring) : Bool :=
  if r.wheld then
    decide (1 ≤ r.wcount) && decide (r.wcount < batch) &&
      Memory.holdsBelow (r.array r.wi) r.wcount (fun _ => true)
  else decide (r.wcount = 0)

/-- The reader's side: a held batch is begun and not finished. -/
def Ring.readerWf (r : Ring) : Bool :=
  if r.rheld then decide (1 ≤ r.rpos) && decide (r.rpos < r.rsize r.ri) else decide (r.rpos = 0)

/-- The invariant of R30, `SEM_EMPTY + SEM_FULL + WHELD + RHELD = 2`, with the order of the arrays
(R211 (1)) and the bounds R204 and R208 rely on. -/
def ringWf (cap batch : Nat) (r : Ring) : Bool :=
  decide (r.semEmpty + r.semFull + r.wheld.toNat + r.rheld.toNat = 2) &&
    (r.wi == (if r.inFlight % 2 = 1 then !r.ri else r.ri)) && r.arrayWf cap false &&
    r.arrayWf cap true && r.writerWf batch && r.readerWf

/-- The published words not yet read, the oldest first. -/
def Ring.unread (r : Ring) : List Word :=
  if r.inFlight = 0 then []
  else
    Memory.slice (r.array r.ri) r.rpos (r.rsize r.ri) ++
      (if 2 ≤ r.inFlight then Memory.slice (r.array (!r.ri)) 0 (r.rsize (!r.ri)) else [])

/-- The words of the writer's batch. -/
def Ring.batch (r : Ring) : List Word :=
  if r.wheld then Memory.slice (r.array r.wi) 0 r.wcount else []

/-- The words in the ring, the oldest first. -/
def Ring.contents (r : Ring) : List Word := r.unread ++ r.batch

/-! ## The whole state -/

/-- The queues keep their depths (R25, R26). -/
def queuesWf (s : State) : Bool :=
  decide (s.genQ.length ≤ s.cfg.genQDepth) && decide (s.detQ.length ≤ s.cfg.detQDepth)

/-- The pin is low exactly in the low phase (R143 (4)), and no width is 0 (R146, R160). -/
def generatorWf (s : State) : Bool :=
  (s.pinOut == decide (s.genState = .idle)) && s.genQ.all (fun w => decide (w ≠ 0)) &&
    s.pulses.all (fun w => decide (w ≠ 0)) &&
    (decide (s.genState = .idle) || decide (s.genCur ≠ 0))

/-- The widths that have entered GEN_Q since reset, in order: completed, in progress and waiting
(R143). -/
def State.widths (s : State) : List Word :=
  s.pulses ++ (match s.genState with | .low => [s.genCur] | .idle => []) ++ s.genQ

/-- PREV is ±FS or its reset value (R31), and ACC holds no bit at CNT or above (R119). -/
def pdmWf (p : Pdm) : Bool :=
  (decide (p.prev = 0) || decide (p.prev = toU32 Depth.d16.max) ||
      decide (p.prev = toU32 (-Depth.d16.max)) || decide (p.prev = toU32 Depth.d24.max) ||
      decide (p.prev = toU32 (-Depth.d24.max))) &&
    decide (p.acc.toNat < 2 ^ p.cnt.val)

/-- A port is held only in a FIFO build, with an accepted value (R165, R166), and then carries no
other command (R256). -/
def portWf (m : ChannelMode) (p : PortState) : Bool :=
  match p.hold with
  | .none => true
  | .fwd v => decide (m = .fifo) && decide (1 ≤ v.toNat) && decide (v.toNat ≤ maxCode) &&
      decide (p.cmd = none)

/-- The discipline that the build does not have is at its reset values (R29, R30): no word of the
ring's arrays is written. -/
def modeWf (s : State) : Bool :=
  match s.cfg.channelMode with
  | .fifo =>
    decide (s.ring =
      { Ring.empty 0 with
        array0 := .unwritten s.ring.array0.seed, array1 := .unwritten s.ring.array1.seed })
  | .ring => !s.fifoFull

/-- What holds of every state of a run (R28, R30, R31, R143). -/
def State.wf (s : State) : Bool :=
  s.cfg.wf && queuesWf s && generatorWf s &&
    dbWf s.cfg.dbCap (elementOk .tx s.fmtDepth) s.dbTx &&
    dbWf s.cfg.dbCap (elementOk .rx s.fmtDepth) s.dbRx &&
    ringWf s.cfg.ringCap s.cfg.ringBatch s.ring && pdmWf s.pdm &&
    portWf s.cfg.channelMode s.portA && portWf s.cfg.channelMode s.portB && modeWf s

/-! ## Running and waiting (R254 to R257, R297) -/

/-- Event `e` makes port `p` run the command word of `t` in `s`: one presented on a free port, or the
one in progress on it, while TX_TICK is not enabled (R254 to R256). -/
def runsTxn (e : Event) (s : State) (p : PortId) (t : Txn) : Prop :=
  s.txTickEnabled = false ∧ (s.port p).hold = .none ∧
    ((e = .command p t ∧ (s.port p).cmd = none) ∨ (e = .proceed p ∧ (s.port p).cmd = some t))

/-- Command `i` waits in `s`: its checks pass and its hold condition is false (R256). -/
def waits (i : Instr) (s : State) : Bool :=
  match i with
  | .genPush w => decide (w ≠ 0) && !s.genSpace
  | .fifoPush _ => decide (s.cfg.channelMode = .fifo) && s.fifoFull
  | .fifoPop => decide (s.cfg.channelMode = .fifo) && !s.fifoFull
  | _ => false

/-- The other port. -/
def otherPort : PortId → PortId
  | .a => .b
  | .b => .a

/-- The state with its ports exchanged (R264). -/
def State.swapPorts (s : State) : State :=
  { s with portA := s.portB, portB := s.portA, active := otherPort s.active }

/-- The event with its port exchanged. -/
def swapEvent : Event → Event
  | .command p t => .command (otherPort p) t
  | .proceed p => .proceed (otherPort p)
  | e => e

/-- The state with its statistics forgotten (R40: "advisory only, never affect correctness"). -/
def State.forgetCounters (s : State) : State := { s with counters := Counters.zero }

/-! ## Premises about the world, and the codec laws -/

/-- The nominal measurement law (R148): what the detector reports of a low phase of `l` ticks. It
gives nothing for a phase shorter than MIN_TACKT, or for a result that is no u32. -/
def nominalMeasurement (c : Config) (l : Word) : Option Word :=
  let m : Int := (l.toNat : Int) - c.minTackt
  if 0 ≤ m ∧ m < 2 ^ 32 then some (toU32 m) else none

/-- The tick budget (R285), for a generator overhead of `g` ticks a pulse. Timing only. -/
def tickBudget (c : Config) (r : Rate) (g : Nat) : Prop :=
  (c.minIntervalCycles + 1023 + g) * r.hz ≤ c.sysClkHz

/-- The codec laws (1) to (4) of R114, of an encoder and a decoder for each depth. Law (1) and the
ends of law (3) are the source's at 16 bits. -/
def CodecLaws (enc : Depth → Int → Int) (dec : Depth → Nat → Int) : Prop :=
  (∀ x : Int, -32768 ≤ x → x ≤ 32767 → |dec .d16 (enc .d16 x).toNat - x| ≤ 65536 / 1024) ∧
  (∀ (d : Depth) (x y : Int), d.min ≤ x → x ≤ y → y ≤ d.max → enc d x ≤ enc d y) ∧
  (∀ (d : Depth) (c e : Nat), c ≤ e → e ≤ 1024 → dec d c ≤ dec d e) ∧
  (∀ d : Depth, enc d 0 = 511 ∨ enc d 0 = 512) ∧
  enc .d16 (-32768) = 0 ∧ enc .d16 32767 = 1023 ∧
  (∀ (d : Depth) (x : Int), 0 < x → x ≤ d.max → 511 ≤ enc d x ∧ enc d x ≤ 1023) ∧
  (∀ (d : Depth) (x : Int), d.min ≤ x → x < 0 → 0 ≤ enc d x ∧ enc d x ≤ 510)

end Sys2Proof.Machine
end

