-- ==== Sys2Proof/Certificates/Slice0/Obligations.lean ====
section
/-! DEFINITION. The statements for the provers, in the order of OBLIGATIONS.json. Each docstring names
the rules of spec/ the statement formalises. A statement about every state is a statement about every
build, since the build parameters are a field of the state (log 1). -/

open Sys2Proof Sys2Proof.Machine

/-! ## Responses, counters and registers -/

/-- What the two operations every command finishes with do. `respond` (R250, R256): one more response
on the active port, whose command is no longer in progress; the other port and the block are as they
were. `count` (R15, R40): one counter up by 1 modulo 2^32, and nothing else. -/
def Obligations.RespondAndCountChangeOnlyTheirOwn : Prop :=
  (∀ (s : State) (st : Status) (v : Word),
    answered s.active s (s.respond st v) ⟨st, v⟩ ∧
    ((s.respond st v).port s.active).cmd = none ∧
    ((s.respond st v).port s.active).hold = (s.port s.active).hold ∧
    (s.respond st v).port (otherPort s.active) = s.port (otherPort s.active) ∧
    { s.respond st v with portA := s.portA, portB := s.portB } = s) ∧
  (∀ (s : State) (c d : CounterId),
    ((s.count c).counters.get d).toNat =
      (if c = d then ((s.counters.get d).toNat + 1) % 2 ^ 32 else (s.counters.get d).toNat) ∧
    { s.count c with counters := s.counters } = s)

/-- R37, with the addresses of R40: CSRs 0x10 to 0x1C read the counters, and read 0 at reset. -/
def Obligations.CounterCsrsReadTheCounters : Prop :=
  ∀ e ∈ ([(0x10, .txCode), (0x11, .txSilence), (0x12, .tickOverrun), (0x13, .rxAccept),
      (0x14, .rxNoise), (0x15, .detDrop), (0x16, .txdbReject), (0x17, .rxdbReject),
      (0x18, .ringDrop), (0x19, .converted), (0x1A, .xfer), (0x1B, .genPulses),
      (0x1C, .detCaptures)] : List (BitVec 8 × CounterId)),
    (∀ s : State, exec (.csrRead e.1) s = .next (s.respond .ok (s.counters.get e.2))) ∧
    (∀ (c : Config) (n : Nat), (State.resetAt c n).counters.get e.2 = 0)

/-- R33: every field of STATUS, and its reset value in both kinds of build. -/
def Obligations.StatusRegisterShowsItsFields : Prop :=
  (∀ s : State, s.genQ.length ≤ 15 → s.detQ.length ≤ 15 → s.ring.semEmpty ≤ 3 → s.ring.semFull ≤ 3 →
    ∃ v : Word, exec (.csrRead 0x03) s = .next (s.respond .ok v) ∧
      v.getLsbD 0 = s.dbTx.buf0.ready ∧ v.getLsbD 1 = s.dbTx.buf1.ready ∧
      v.getLsbD 2 = s.dbTx.w ∧ v.getLsbD 3 = s.dbTx.r ∧ v.getLsbD 4 = s.dbTx.isOpen ∧
      v.getLsbD 5 = s.dbRx.buf0.ready ∧ v.getLsbD 6 = s.dbRx.buf1.ready ∧
      v.getLsbD 7 = s.dbRx.w ∧ v.getLsbD 8 = s.dbRx.r ∧ v.getLsbD 9 = s.dbRx.isOpen ∧
      (v.extractLsb' 10 4).toNat = s.genQ.length ∧ (v.extractLsb' 14 4).toNat = s.detQ.length ∧
      v.getLsbD 18 = s.fifoFull ∧ (v.extractLsb' 19 2).toNat = s.ring.semEmpty ∧
      (v.extractLsb' 21 2).toNat = s.ring.semFull ∧ v.getLsbD 23 = s.ring.wheld ∧
      v.getLsbD 24 = s.ring.rheld ∧ v.getLsbD 25 = s.ring.wi ∧ v.getLsbD 26 = s.ring.ri ∧
      v.getLsbD 27 = s.tickPending ∧ v.getLsbD 28 = s.pinOut ∧
      v.getLsbD 29 = decide (s.genState = .low) ∧
      v.getLsbD 30 = decide (s.cfg.channelMode = .ring) ∧ v.getLsbD 31 = false) ∧
  (∀ (c : Config) (n : Nat),
    exec (.csrRead 0x03) (State.resetAt c n) =
      .next ((State.resetAt c n).respond .ok
        (match c.channelMode with | .fifo => 0x10100000 | .ring => 0x50100000)))

/-- R34, R35 and R36: the format registers, the PDM registers, and the buffer and channel registers
(two 16-bit halves each but for FIFO_WORD), with their reset values. The sizes and cursors are those
of a state whose arrays fit the CSR fields (R11). -/
def Obligations.ElementCsrsReadTheirElements : Prop :=
  (∀ s : State,
    (∃ v : Word, exec (.csrRead 0x00) s = .next (s.respond .ok v) ∧
      v.getLsbD 0 = decide (s.fmtDepth = .d24) ∧ v.getLsbD 1 = decide (s.fmtRate = .r44100) ∧
      v.extractLsb' 2 30 = 0) ∧
    exec (.csrRead 0x01) s =
      .next (s.respond .ok (match s.fmtRate with | .r44100 => 44100 | .r48000 => 48000)) ∧
    exec (.csrRead 0x02) s =
      .next (s.respond .ok (match s.fmtDepth with | .d16 => 16 | .d24 => 24)) ∧
    exec (.csrRead 0x04) s = .next (s.respond .ok s.pdm.acc) ∧
    (∃ v : Word, exec (.csrRead 0x05) s = .next (s.respond .ok v) ∧
      (v.extractLsb' 0 5).toNat = s.pdm.cnt.val ∧ v.extractLsb' 5 27 = 0) ∧
    exec (.csrRead 0x06) s = .next (s.respond .ok s.pdm.i1) ∧
    exec (.csrRead 0x07) s = .next (s.respond .ok s.pdm.i2) ∧
    exec (.csrRead 0x08) s = .next (s.respond .ok s.pdm.prev)) ∧
  (∀ (c : Config) (n : Nat), ∀ e ∈ ([(0x00, 0), (0x01, 48000), (0x02, 16), (0x04, 0), (0x05, 0),
      (0x06, 0), (0x07, 0), (0x08, 0)] : List (BitVec 8 × Word)),
    exec (.csrRead e.1) (State.resetAt c n) = .next ((State.resetAt c n).respond .ok e.2)) ∧
  (∀ s : State,
    exec (.csrRead 0x09) s = .next (s.respond .ok s.fifoWord) ∧
    (∀ e ∈ [((0x0A : BitVec 8), s.dbTx.buf0.size, s.dbTx.buf0.pos),
        (0x0B, s.dbTx.buf1.size, s.dbTx.buf1.pos), (0x0C, s.dbRx.buf0.size, s.dbRx.buf0.pos),
        (0x0D, s.dbRx.buf1.size, s.dbRx.buf1.pos), (0x0E, s.ring.rsize1, s.ring.rsize0),
        (0x0F, s.ring.rpos, s.ring.wcount)],
      e.2.1 < 65536 → e.2.2 < 65536 →
      ∃ v : Word, exec (.csrRead e.1) s = .next (s.respond .ok v) ∧
        (v.extractLsb' 16 16).toNat = e.2.1 ∧ (v.extractLsb' 0 16).toNat = e.2.2)) ∧
  (∀ (c : Config) (n : Nat), ∀ a ∈ ([0x09, 0x0A, 0x0B, 0x0C, 0x0D, 0x0E, 0x0F] : List (BitVec 8)),
    exec (.csrRead a) (State.resetAt c n) = .next ((State.resetAt c n).respond .ok 0))

/-- R38: the configuration registers read the build parameters, in a build the spec admits. -/
def Obligations.ConfigurationCsrsReadTheBuild : Prop :=
  ∀ s : State, s.cfg.wf = true →
    (∀ e ∈ [((0x20 : BitVec 8), s.cfg.minIntervalCycles), (0x22, 1024), (0x23, s.cfg.minPulsePeriod),
        (0x24, s.cfg.sysClkHz), (0x25, s.cfg.genQDepth), (0x26, s.cfg.detQDepth),
        (0x27, s.cfg.dbCap), (0x28, s.cfg.ringCap), (0x29, s.cfg.ringBatch),
        (0x2A, match s.cfg.channelMode with | .fifo => 0 | .ring => 1)],
      ∃ v : Word, exec (.csrRead e.1) s = .next (s.respond .ok v) ∧ v.toNat = e.2) ∧
    (∃ v : Word, exec (.csrRead 0x21) s = .next (s.respond .ok v) ∧ v.toInt = s.cfg.minTackt)

/-- R39, and which addresses are mapped (R33 to R38): CSR_READ always answers, changes nothing else
(R234), and answers ECSR with VALUE 0 exactly at the unmapped addresses. -/
def Obligations.CsrReadAnswersAtEveryAddress : Prop :=
  ∀ (csr : BitVec 8) (a b : Word) (s : State),
    decode ⟨0x01#8 ++ csr, a, b⟩ = .ok (.csrRead csr) ∧
    ((0x1D ≤ csr.toNat ∧ csr.toNat ≤ 0x1F ∨ 0x2B ≤ csr.toNat) →
      exec (.csrRead csr) s = .next (s.respond .ecsr 0)) ∧
    (¬ (0x1D ≤ csr.toNat ∧ csr.toNat ≤ 0x1F ∨ 0x2B ≤ csr.toNat) →
      ∃ v : Word, exec (.csrRead csr) s = .next (s.respond .ok v))

/-! ## Control commands -/

/-- R230. -/
def Obligations.NopAnswersOk : Prop :=
  ∀ (s : State) (a b : Word),
    decode ⟨0x0000, a, b⟩ = .ok .nop ∧
    exec .nop s = .next (s.respond .ok 0) ∧
    (∀ sel : BitVec 8, sel ≠ 0 → decode ⟨0x00#8 ++ sel, a, b⟩ = .error (.selNotZero 0 sel))

/-- R232 (and R188 for the buffers): an accepted SET_FORMAT sets the format, empties both double
buffers and clears the tick latch, and nothing else; another one changes nothing. -/
def Obligations.SetFormatIsAllOrNothing : Prop :=
  ∀ (s : State) (a b : Word),
    decode ⟨0x0200, a, b⟩ = .ok (.setFormat a b) ∧
    (∀ (rate : Rate) (depth : Depth), a.toNat = rate.hz → b.toNat = depth.bits →
      exec (.setFormat a b) s = .next
        ({ s with
            fmtRate := rate, fmtDepth := depth, tickPending := false,
            dbTx := ⟨⟨s.dbTx.buf0.payload, 0, 0, false⟩, ⟨s.dbTx.buf1.payload, 0, 0, false⟩,
              false, false, false⟩,
            dbRx := ⟨⟨s.dbRx.buf0.payload, 0, 0, false⟩, ⟨s.dbRx.buf1.payload, 0, 0, false⟩,
              false, false, false⟩ }.respond .ok 0)) ∧
    ((a.toNat ≠ 44100 ∧ a.toNat ≠ 48000) ∨ (b.toNat ≠ 16 ∧ b.toNat ≠ 24) →
      exec (.setFormat a b) s = .next (s.respond .eformat 0))

/-- R233. -/
def Obligations.StatsClearZeroesTheCounters : Prop :=
  ∀ (s : State) (a b : Word),
    decode ⟨0x0300, a, b⟩ = .ok .statsClear ∧
    ∃ k : Counters, (∀ c : CounterId, k.get c = 0) ∧
      exec .statsClear s = .next ({ s with counters := k }.respond .ok 0)

/-! ## Codec -/

/-- R112: the code of a sample, by the two floors of the rule written as inequalities. -/
def Obligations.EncodeFormula : Prop :=
  ∀ (d : Depth) (x : Int), d.min ≤ x → x ≤ d.max →
    (0 ≤ x → ∃ q : Int, ppmCode d x = 511 + q ∧ q * d.max ≤ x * 512 ∧ x * 512 < (q + 1) * d.max ∧
      511 ≤ ppmCode d x ∧ ppmCode d x ≤ 1023) ∧
    (x < 0 → ∃ q : Int, ppmCode d x = 510 - q ∧ q * d.max ≤ (-x - 1) * 510 ∧
      (-x - 1) * 510 < (q + 1) * d.max ∧ 0 ≤ ppmCode d x ∧ ppmCode d x ≤ 510)

/-- R115. -/
def Obligations.PpmEncodeAnswersTheCode : Prop :=
  ∀ (s : State) (a b : Word),
    decode ⟨0x1000, a, b⟩ = .ok (.ppmEncode a) ∧
    (s.fmtDepth.min ≤ a.toInt → a.toInt ≤ s.fmtDepth.max →
      ∃ v : Word, (v.toNat : Int) = ppmCode s.fmtDepth a.toInt ∧
        exec (.ppmEncode a) s = .next ((s.count .converted).respond .ok v)) ∧
    (a.toInt < s.fmtDepth.min ∨ s.fmtDepth.max < a.toInt →
      exec (.ppmEncode a) s = .next (s.respond .erange 0))

/-- R113: the decoder by its two ceilings, as the inverse of the encoder, and as the sample closest to
zero in its bin. -/
def Obligations.DecodeFormula : Prop :=
  ∀ (d : Depth) (c : Nat), c ≤ 1024 →
    d.min ≤ ppmSample d c ∧ ppmSample d c ≤ d.max ∧
    (511 ≤ min c 1023 → 512 * (ppmSample d c - 1) < ((min c 1023 : Nat) - 511 : Int) * d.max ∧
      ((min c 1023 : Nat) - 511 : Int) * d.max ≤ 512 * ppmSample d c) ∧
    (min c 1023 ≤ 510 → ∃ k : Int, ppmSample d c = -1 - k ∧
      510 * (k - 1) < (510 - (min c 1023 : Nat) : Int) * d.max ∧
      (510 - (min c 1023 : Nat) : Int) * d.max ≤ 510 * k) ∧
    ppmCode d (ppmSample d c) = (min c 1023 : Nat) ∧
    (∀ x : Int, d.min ≤ x → x ≤ d.max → ppmCode d x = (min c 1023 : Nat) → |ppmSample d c| ≤ |x|)

/-- R116, with its corner cases. -/
def Obligations.PpmDecodeAnswersTheSample : Prop :=
  (∀ (s : State) (a b : Word),
    decode ⟨0x1100, a, b⟩ = .ok (.ppmDecode a) ∧
    (a.toNat ≤ 1024 →
      ∃ v : Word, v.toInt = ppmSample s.fmtDepth a.toNat ∧
        exec (.ppmDecode a) s = .next ((s.count .converted).respond .ok v)) ∧
    (1024 < a.toNat → exec (.ppmDecode a) s = .next (s.respond .erange 0))) ∧
  (∀ d : Depth, ppmSample d 511 = 0 ∧ ppmSample d 510 = -1 ∧ ppmSample d 0 = d.min ∧
    ppmSample d 1023 = d.max ∧ ppmSample d 1024 = d.max) ∧
  ppmSample .d16 512 = 64 ∧ ppmSample .d16 1 = -32704

/-- R114: the decided codec satisfies the four laws, (2) and (4) at both depths, and its worst errors
are the ones the rule gives. -/
def Obligations.CodecSatisfiesTheLaws : Prop :=
  CodecLaws ppmCode ppmSample ∧
  ppmCode .d16 0 = 511 ∧
  (∀ x : Int, 0 ≤ x → x ≤ 32767 →
    -63 ≤ ppmSample .d16 (ppmCode .d16 x).toNat - x ∧ ppmSample .d16 (ppmCode .d16 x).toNat - x ≤ 0) ∧
  (∀ x : Int, -32768 ≤ x → x < 0 →
    0 ≤ ppmSample .d16 (ppmCode .d16 x).toNat - x ∧ ppmSample .d16 (ppmCode .d16 x).toNat - x ≤ 64) ∧
  (∀ x : Int, 0 ≤ x → x ≤ 8388607 → |ppmSample .d24 (ppmCode .d24 x).toNat - x| ≤ 16383) ∧
  (∀ x : Int, -8388608 ≤ x → x < 0 → |ppmSample .d24 (ppmCode .d24 x).toNat - x| ≤ 16448) ∧
  (∃ x : Int, 0 ≤ x ∧ x ≤ 32767 ∧ |ppmSample .d16 (ppmCode .d16 x).toNat - x| = 63) ∧
  (∃ x : Int, -32768 ≤ x ∧ x < 0 ∧ |ppmSample .d16 (ppmCode .d16 x).toNat - x| = 64) ∧
  (∃ x : Int, 0 ≤ x ∧ x ≤ 8388607 ∧ |ppmSample .d24 (ppmCode .d24 x).toNat - x| = 16383) ∧
  (∃ x : Int, -8388608 ≤ x ∧ x < 0 ∧ |ppmSample .d24 (ppmCode .d24 x).toNat - x| = 16448)

/-- R110 and R8: the bounds of the two resolutions, and ERANGE for a sample outside those of the
format at the moment the command executes. -/
def Obligations.SamplesOutOfRangeAreRejected : Prop :=
  Depth.d16.max = 32767 ∧ Depth.d16.min = -32768 ∧ Depth.d24.max = 8388607 ∧
  Depth.d24.min = -8388608 ∧
  (∀ d : Depth, d.max = 2 ^ (d.bits - 1) - 1 ∧ d.min = -2 ^ (d.bits - 1)) ∧
  ∀ (s : State) (x y : Word), x.toInt < s.fmtDepth.min ∨ s.fmtDepth.max < x.toInt →
    exec (.ppmEncode x) s = .next (s.respond .erange 0) ∧
    exec (.pdmStep x) s = .next (s.respond .erange 0) ∧
    exec (.downmix x y) s = .next (s.respond .erange 0) ∧
    exec (.downmix y x) s = .next (s.respond .erange 0)

/-- R117: with l = 2h or 2h + 1 and r = 2k or 2k + 1, the answer is h + k; it is in range. -/
def Obligations.DownmixAddsTheHalves : Prop :=
  ∀ (s : State) (l r : Word),
    decode ⟨0x1200, l, r⟩ = .ok (.downmix l r) ∧
    (s.fmtDepth.min ≤ l.toInt → l.toInt ≤ s.fmtDepth.max → s.fmtDepth.min ≤ r.toInt →
      r.toInt ≤ s.fmtDepth.max →
      ∃ (v : Word) (h k : Int), (l.toInt = 2 * h ∨ l.toInt = 2 * h + 1) ∧
        (r.toInt = 2 * k ∨ r.toInt = 2 * k + 1) ∧ v.toInt = h + k ∧
        s.fmtDepth.min ≤ v.toInt ∧ v.toInt ≤ s.fmtDepth.max - 1 ∧
        exec (.downmix l r) s = .next (s.respond .ok v)) ∧
    (l.toInt < s.fmtDepth.min ∨ s.fmtDepth.max < l.toInt ∨ r.toInt < s.fmtDepth.min ∨
      s.fmtDepth.max < r.toInt → exec (.downmix l r) s = .next (s.respond .erange 0))

/-- R118, R119, R120: one sample through the modulator, the integrators in 32-bit arithmetic. -/
def Obligations.PdmStepIntegratesAndPacks : Prop :=
  ∀ (s : State) (x b : Word),
    decode ⟨0x1300, x, b⟩ = .ok (.pdmStep x) ∧
    (s.fmtDepth.min ≤ x.toInt → x.toInt ≤ s.fmtDepth.max →
      ∀ (i1 i2 prev acc : Word) (bit : Bool),
        i1 = s.pdm.i1 + x - s.pdm.prev → i2 = s.pdm.i2 + i1 - s.pdm.prev →
        bit = decide (0 ≤ i2.toInt) →
        prev.toInt = (if bit then s.fmtDepth.max else -s.fmtDepth.max) →
        acc = s.pdm.acc ||| (if bit then 1#32 <<< s.pdm.cnt.val else 0) →
        (∀ n : Fin 32, n.val = s.pdm.cnt.val + 1 →
          exec (.pdmStep x) s = .next
            (({ s with pdm := ⟨i1, i2, prev, acc, n⟩ }.count .converted).respond .ok
              (if bit then 1 else 0))) ∧
        (s.pdm.cnt.val = 31 →
          exec (.pdmStep x) s = .next
            (({ s with pdm := ⟨i1, i2, prev, 0, 0⟩ }.count .converted).respond .pdmWord acc))) ∧
    (x.toInt < s.fmtDepth.min ∨ s.fmtDepth.max < x.toInt →
      exec (.pdmStep x) s = .next (s.respond .erange 0))

/-! ## Pulse generator and detector -/

/-- R146. That the step of a GEN_PUSH which waits at a full GEN_Q is a next state equal to the old one
is the model's choice (log 5). -/
def Obligations.GenPushQueuesOrWaits : Prop :=
  ∀ (s : State) (w b : Word),
    decode ⟨0x2000, w, b⟩ = .ok (.genPush w) ∧
    exec (.genPush 0) s = .next (s.respond .erange 0) ∧
    (w ≠ 0 → s.genQ.length < s.cfg.genQDepth →
      exec (.genPush w) s = .next ({ s with genQ := s.genQ ++ [w] }.respond .ok 0)) ∧
    (w ≠ 0 → s.cfg.genQDepth ≤ s.genQ.length → exec (.genPush w) s = .next s)

/-- R147. -/
def Obligations.DetPopTakesTheOldestMeasurement : Prop :=
  ∀ (s : State) (a b : Word),
    decode ⟨0x2100, a, b⟩ = .ok .detPop ∧
    (s.detQ = [] → exec .detPop s = .next (s.respond .empty 0)) ∧
    (∀ (m : Word) (rest : List Word), s.detQ = m :: rest →
      exec .detPop s = .next ({ s with detQ := rest }.respond .ok m))

/-- R140 and R142: the two steps of the generator, and that neither is taken where it is not enabled:
the event then answers the unchanged state, which is the model's choice (log 6). -/
def Obligations.GeneratorStepsStartAndEndAPulse : Prop :=
  ∀ s : State,
    (∀ (w : Word) (rest : List Word), s.genState = .idle → s.genQ = w :: rest →
      runEvent .genStart s =
        .next { s with genQ := rest, genCur := w, genState := .low, pinOut := false }) ∧
    (s.genState = .low ∨ s.genQ = [] → runEvent .genStart s = .next s) ∧
    (s.genState = .low →
      runEvent .genEnd s = .next
        ({ s with pinOut := true, genState := .idle, pulses := s.pulses ++ [s.genCur] }.count
          .genPulses)) ∧
    (s.genState = .idle → runEvent .genEnd s = .next s)

/-! ## Scheduler and receive correction -/

/-- R145 and R161: every capture is counted, and one that finds DET_Q full is dropped, the newest
entry; a tick sets the latch, or counts an overrun where the latch is already set. -/
def Obligations.CaptureAndTickNeverBlock : Prop :=
  ∀ (s : State) (m : Word),
    (s.detQ.length < s.cfg.detQDepth →
      runEvent (.capture m) s = .next ({ s with detQ := s.detQ ++ [m] }.count .detCaptures)) ∧
    (s.cfg.detQDepth ≤ s.detQ.length →
      runEvent (.capture m) s = .next ((s.count .detCaptures).count .detDrop)) ∧
    (s.tickPending = true → runEvent .tick s = .next (s.count .tickOverrun)) ∧
    (s.tickPending = false → runEvent .tick s = .next { s with tickPending := true })

/-- R162, with R183 for the release: a code goes out, the last code of a buffer goes out and releases
it, or silence goes out; and TX_TICK is not taken where it is not enabled: the event then answers the
unchanged state, which is the model's choice (log 6). In a build outside the spec's ranges a width
wraps, which is the model's too (log 8). -/
def Obligations.TxTickSendsACodeOrSilence : Prop :=
  ∀ s : State,
    (s.tickPending = false ∨ s.cfg.genQDepth ≤ s.genQ.length → runEvent .txTick s = .next s) ∧
    (s.tickPending = true → s.genQ.length < s.cfg.genQDepth →
      ∀ (b : Buf), b = s.dbTx.buf s.dbTx.r →
      (∀ c w : Word, b.ready = true → b.pos < b.size → b.pos < s.cfg.dbCap →
        c = b.payload.get b.pos →
        w = BitVec.ofNat 32 (s.cfg.minIntervalCycles + c.toNat) →
        (b.pos + 1 < b.size →
          runEvent .txTick s = .next
            ({ s with
                tickPending := false, genQ := s.genQ ++ [w],
                dbTx := s.dbTx.setBuf s.dbTx.r { b with pos := b.pos + 1 } }.count .txCode)) ∧
        (b.pos + 1 = b.size →
          runEvent .txTick s = .next
            ({ s with
                tickPending := false, genQ := s.genQ ++ [w],
                dbTx := { s.dbTx.setBuf s.dbTx.r ⟨b.payload, 0, 0, false⟩ with
                  r := !s.dbTx.r } }.count .txCode))) ∧
      (∀ w : Word, w = BitVec.ofNat 32 s.cfg.minIntervalCycles →
        (b.ready = false →
          runEvent .txTick s = .next
            ({ s with tickPending := false, genQ := s.genQ ++ [w] }.count .txSilence)) ∧
        (b.ready = true → b.size ≤ b.pos →
          runEvent .txTick s = .next
            ({ s with
                tickPending := false, genQ := s.genQ ++ [w],
                dbTx := { s.dbTx.setBuf s.dbTx.r ⟨b.payload, 0, 0, false⟩ with
                  r := !s.dbTx.r } }.count .txSilence))))

/-- R167, with the formulas of R165: VALUE is the low 32 bits of the corrected value, and no state
changes. -/
def Obligations.RxCorrectAnswersTheCorrection : Prop :=
  ∀ (s : State) (m b : Word) (c : Int),
    c = (m.toNat : Int) + s.cfg.minTackt - s.cfg.minIntervalCycles →
    decode ⟨0x2800, m, b⟩ = .ok (.rxCorrect m) ∧
    (0 < c → c ≤ 1024 → exec (.rxCorrect m) s = .next (s.respond .ok (BitVec.ofInt 32 c))) ∧
    (c ≤ 0 ∨ 1024 < c → exec (.rxCorrect m) s = .next (s.respond .noise (BitVec.ofInt 32 c)))

/-- R166: empty, noise, forwarded by the FIFO, held at a full FIFO, forwarded by the ring (as
RING_APPEND of R204 does), and dropped by a saturated ring. That the command of a poll which enters
FWD leaves the model's own field `cmd` is log 5's deduction, not the rule's. -/
def Obligations.RxPollCorrectsAndForwards : Prop :=
  ∀ (s : State) (a b : Word),
    decode ⟨0x2900, a, b⟩ = .ok .rxPoll ∧
    (s.detQ = [] → exec .rxPoll s = .next (s.respond .empty 0)) ∧
    ∀ (m : Word) (rest : List Word) (c : Int), s.detQ = m :: rest →
      c = (m.toNat : Int) + s.cfg.minTackt - s.cfg.minIntervalCycles →
      (c ≤ 0 ∨ 1024 < c →
        exec .rxPoll s = .next (({ s with detQ := rest }.count .rxNoise).respond .noise m)) ∧
      (0 < c → c ≤ 1024 → ∀ v : Word, (v.toNat : Int) = c →
        (s.cfg.channelMode = .fifo → s.fifoFull = false →
          exec .rxPoll s = .next
            (({ s with detQ := rest, fifoFull := true, fifoWord := v }.count .rxAccept).respond
              .ok v)) ∧
        (s.cfg.channelMode = .fifo → s.fifoFull = true →
          ∃ t : State, exec .rxPoll s = .next t ∧ (t.port s.active).hold = .fwd v ∧
            (t.port s.active).cmd = none ∧
            (t.port s.active).responses = (s.port s.active).responses ∧
            t.port (otherPort s.active) = s.port (otherPort s.active) ∧
            { t with portA := s.portA, portB := s.portB } =
              { s with detQ := rest }.count .rxAccept) ∧
        (s.cfg.channelMode = .ring → s.ring.wheld = false → s.ring.semEmpty = 0 →
          exec .rxPoll s = .next
            ((({ s with detQ := rest }.count .rxAccept).count .ringDrop).respond .busy v)) ∧
        (s.cfg.channelMode = .ring →
          (s.ring.wheld = true ∧ s.ring.wcount < s.cfg.ringCap) ∨
            (s.ring.wheld = false ∧ s.ring.semEmpty ≠ 0 ∧ 0 < s.cfg.ringCap) →
          ∃ r : Ring,
            s.ringAppend v = .ok (true, { s with ring := r }) ∧
            exec .rxPoll s = .next
              (({ s with detQ := rest, ring := r }.count .rxAccept).respond .ok v)))

/-- R168: the completion of a held RX_POLL, which is not enabled while the slot is full: the event then
answers the unchanged state, which is the model's choice (log 6). -/
def Obligations.HeldForwardCompletesWhenTheSlotIsFree : Prop :=
  ∀ (s : State) (p : PortId) (v : Word), s.txTickEnabled = false → (s.port p).hold = .fwd v →
    (s.fifoFull = true → runEvent (.proceed p) s = .next s) ∧
    (s.fifoFull = false →
      runEvent (.proceed p) s = .next
        (({ s with fifoFull := true, fifoWord := v, active := p }.setPort p
          { s.port p with hold := .none }).respond .ok v))

/-- The calibration identity (R148, R160, R165, R288): under the nominal law the correction of a sent
code's measurement is the code, and it is accepted unless the code is 0. -/
def Obligations.CorrectionUndoesTheNominalMeasurement : Prop :=
  ∀ (c : Config) (code m : Word), c.wf = true → code.toNat ≤ 1023 →
    nominalMeasurement c (widthSent c code) = some m →
    (widthSent c code).toNat = c.minIntervalCycles + code.toNat ∧
    corr c m = (code.toNat : Int) ∧ (accept c m = true ↔ code ≠ 0)

/-! ## Double buffer -/

/-- R180. -/
def Obligations.DbBeginOpensAUnit : Prop :=
  ∀ (s : State) (a b : Word) (i : Inst),
    decode ⟨0x30#8 ++ (match i with | .tx => 0x00#8 | .rx => 0x01#8), a, b⟩ = .ok (.dbBegin i) ∧
    ((s.db i).isOpen = true → exec (.dbBegin i) s = .next (s.respond .eseq 0)) ∧
    ((s.db i).isOpen = false → ((s.db i).buf (s.db i).w).ready = true →
      exec (.dbBegin i) s = .next
        ((s.count (match i with | .tx => .txdbReject | .rx => .rxdbReject)).respond .busy 0)) ∧
    ((s.db i).isOpen = false → ((s.db i).buf (s.db i).w).ready = false →
      exec (.dbBegin i) s = .next
        ((s.setDb i { s.db i with isOpen := true }).respond .ok (if (s.db i).w then 1 else 0)))

/-- R181, with the element types of R185: one word is written, at the index `size` of the open
buffer. -/
def Obligations.DbPutAppendsAnElement : Prop :=
  ∀ (s : State) (x b : Word) (i : Inst) (u : Buf), u = (s.db i).buf (s.db i).w →
    decode ⟨0x31#8 ++ (match i with | .tx => 0x00#8 | .rx => 0x01#8), x, b⟩ = .ok (.dbPut i x) ∧
    ((s.db i).isOpen = false → exec (.dbPut i x) s = .next (s.respond .eseq 0)) ∧
    ((s.db i).isOpen = true →
      (match i with
        | .tx => 1023 < x.toNat
        | .rx => x.toInt < s.fmtDepth.min ∨ s.fmtDepth.max < x.toInt) →
      exec (.dbPut i x) s = .next (s.respond .erange 0)) ∧
    ((s.db i).isOpen = true →
      (match i with
        | .tx => x.toNat ≤ 1023
        | .rx => s.fmtDepth.min ≤ x.toInt ∧ x.toInt ≤ s.fmtDepth.max) →
      (u.size = s.cfg.dbCap →
        exec (.dbPut i x) s = .next (s.respond .erange (BitVec.ofNat 32 s.cfg.dbCap))) ∧
      (u.size < s.cfg.dbCap →
        ∃ m : Memory,
          (∀ j, m.get j = if j = u.size then x else u.payload.get j) ∧
          exec (.dbPut i x) s = .next
            ((s.setDb i ((s.db i).setBuf (s.db i).w ⟨m, u.size + 1, u.pos, u.ready⟩)).respond .ok
              (BitVec.ofNat 32 (u.size + 1)))))

/-- R182. -/
def Obligations.DbCommitPublishesTheUnit : Prop :=
  ∀ (s : State) (a b : Word) (i : Inst) (u : Buf), u = (s.db i).buf (s.db i).w →
    decode ⟨0x32#8 ++ (match i with | .tx => 0x00#8 | .rx => 0x01#8), a, b⟩ = .ok (.dbCommit i) ∧
    ((s.db i).isOpen = false → exec (.dbCommit i) s = .next (s.respond .eseq 0)) ∧
    ((s.db i).isOpen = true → u.size = 0 →
      exec (.dbCommit i) s = .next
        ((s.setDb i { s.db i with isOpen := false }).respond .empty 0)) ∧
    ((s.db i).isOpen = true → u.size ≠ 0 →
      exec (.dbCommit i) s = .next
        ((s.setDb i { (s.db i).setBuf (s.db i).w ⟨u.payload, u.size, 0, true⟩ with
            isOpen := false, w := !(s.db i).w }).respond .ok (BitVec.ofNat 32 u.size)))

/-- R184, with R183 for the release. -/
def Obligations.DbGetTakesTheNextElement : Prop :=
  ∀ (s : State) (a b : Word) (u : Buf), u = s.dbRx.buf s.dbRx.r →
    (∀ i : Inst, decode ⟨0x33#8 ++ (match i with | .tx => 0x00#8 | .rx => 0x01#8), a, b⟩ =
      .ok (.dbGet i)) ∧
    exec (.dbGet .tx) s = .next (s.respond .emode 0) ∧
    (u.ready = false → exec (.dbGet .rx) s = .next (s.respond .empty 0)) ∧
    (u.ready = true → u.size ≤ u.pos →
      exec (.dbGet .rx) s = .next
        ({ s with
            dbRx := { s.dbRx.setBuf s.dbRx.r ⟨u.payload, 0, 0, false⟩ with
              r := !s.dbRx.r } }.respond .empty 0)) ∧
    (∀ v : Word, u.ready = true → u.pos < u.size → u.pos < s.cfg.dbCap →
      v = u.payload.get u.pos →
      (u.pos + 1 < u.size →
        exec (.dbGet .rx) s = .next
          ({ s with dbRx := s.dbRx.setBuf s.dbRx.r { u with pos := u.pos + 1 } }.respond .ok v)) ∧
      (u.pos + 1 = u.size →
        exec (.dbGet .rx) s = .next
          ({ s with
              dbRx := { s.dbRx.setBuf s.dbRx.r ⟨u.payload, 0, 0, false⟩ with
                r := !s.dbRx.r } }.respond .ok v)))

/-! ## Cross-core channel -/

/-- R201, with R200 for the other build: the word goes into a free slot, and waits for it while it is
full. That the step of a FIFO_PUSH which waits is a next state equal to the old one is the model's
choice (log 5). -/
def Obligations.FifoPushFillsTheSlotOrWaits : Prop :=
  ∀ (s : State) (w b : Word),
    decode ⟨0x4000, w, b⟩ = .ok (.fifoPush w) ∧
    (s.cfg.channelMode = .ring → exec (.fifoPush w) s = .next (s.respond .emode 0)) ∧
    (s.cfg.channelMode = .fifo → s.fifoFull = false →
      exec (.fifoPush w) s = .next ({ s with fifoFull := true, fifoWord := w }.respond .ok 0)) ∧
    (s.cfg.channelMode = .fifo → s.fifoFull = true → exec (.fifoPush w) s = .next s)

/-- R202, with R200 for the other build. That the step of a FIFO_POP which waits at an empty slot is a
next state equal to the old one is the model's choice (log 5). -/
def Obligations.FifoPopEmptiesTheSlotOrWaits : Prop :=
  ∀ (s : State) (a b : Word),
    decode ⟨0x4100, a, b⟩ = .ok .fifoPop ∧
    (s.cfg.channelMode = .ring → exec .fifoPop s = .next (s.respond .emode 0)) ∧
    (s.cfg.channelMode = .fifo → s.fifoFull = true →
      exec .fifoPop s = .next (({ s with fifoFull := false }.count .xfer).respond .ok s.fifoWord)) ∧
    (s.cfg.channelMode = .fifo → s.fifoFull = false → exec .fifoPop s = .next s)

/-- R203 (1) to (3): a word in the slot stays there until an event runs a FIFO_POP on some port, and
that FIFO_POP answers the word there. -/
def Obligations.FifoWordIsNeverOverwritten : Prop :=
  ∀ (s t : State) (e : Event), e ≠ .powerOn → s.fifoFull = true → runEvent e s = .next t →
    t.fifoWord = s.fifoWord ∧
    (t.fifoFull = true ∨
      t.fifoFull = false ∧ ∃ (p : PortId) (x : Txn), runsTxn e s p x ∧ decode x = .ok .fifoPop ∧
        answered p s t ⟨.ok, s.fifoWord⟩)

/-- R204, R205, R206: dropped, appended, or appended and published. `n` is the index written. -/
def Obligations.RingAppendWritesPublishesOrDrops : Prop :=
  ∀ (s : State) (w b : Word) (n e : Nat),
    n = (if s.ring.wheld then s.ring.wcount else 0) →
    e = (if s.ring.wheld then s.ring.semEmpty else s.ring.semEmpty - 1) →
    decode ⟨0x4800, w, b⟩ = .ok (.ringAppend w) ∧
    (s.cfg.channelMode = .fifo → exec (.ringAppend w) s = .next (s.respond .emode 0)) ∧
    (s.cfg.channelMode = .ring → s.ring.wheld = false → s.ring.semEmpty = 0 →
      exec (.ringAppend w) s = .next ((s.count .ringDrop).respond .busy 0)) ∧
    (s.cfg.channelMode = .ring → s.ring.wheld = true ∨ s.ring.semEmpty ≠ 0 → n < s.cfg.ringCap →
      ∃ m : Memory,
        (∀ j, m.get j = if j = n then w else (s.ring.array s.ring.wi).get j) ∧
        (n + 1 ≠ s.cfg.ringBatch →
          exec (.ringAppend w) s = .next
            ({ s with
                ring := { s.ring.setArray s.ring.wi m with
                  semEmpty := e, wheld := true, wcount := n + 1 } }.respond .ok
              (BitVec.ofNat 32 (n + 1)))) ∧
        (n + 1 = s.cfg.ringBatch →
          exec (.ringAppend w) s = .next
            ({ s with
                ring := { (s.ring.setArray s.ring.wi m).setRsize s.ring.wi (n + 1) with
                  semEmpty := e, semFull := s.ring.semFull + 1, wi := !s.ring.wi, wheld := false,
                  wcount := 0 } }.respond .ok 0)))

/-- R207, with R206. -/
def Obligations.RingFlushPublishesThePartialBatch : Prop :=
  ∀ (s : State) (a b : Word),
    decode ⟨0x4900, a, b⟩ = .ok .ringFlush ∧
    (s.cfg.channelMode = .fifo → exec .ringFlush s = .next (s.respond .emode 0)) ∧
    (s.cfg.channelMode = .ring → s.ring.wheld = true → 0 < s.ring.wcount →
      exec .ringFlush s = .next
        ({ s with
            ring := { s.ring.setRsize s.ring.wi s.ring.wcount with
              semFull := s.ring.semFull + 1, wi := !s.ring.wi, wheld := false,
              wcount := 0 } }.respond .ok (BitVec.ofNat 32 s.ring.wcount))) ∧
    (s.cfg.channelMode = .ring → s.ring.wheld = false ∨ s.ring.wcount = 0 →
      exec .ringFlush s = .next (s.respond .empty 0))

/-- R208, R209: nothing to take, a word, or the last word of a batch with its release. `n` is the
index read. -/
def Obligations.RingPopTakesTheNextWord : Prop :=
  ∀ (s : State) (a b : Word) (n f : Nat),
    n = (if s.ring.rheld then s.ring.rpos else 0) →
    f = (if s.ring.rheld then s.ring.semFull else s.ring.semFull - 1) →
    decode ⟨0x4A00, a, b⟩ = .ok .ringPop ∧
    (s.cfg.channelMode = .fifo → exec .ringPop s = .next (s.respond .emode 0)) ∧
    (s.cfg.channelMode = .ring → s.ring.rheld = false → s.ring.semFull = 0 →
      exec .ringPop s = .next (s.respond .empty 0)) ∧
    (∀ v : Word, s.cfg.channelMode = .ring → s.ring.rheld = true ∨ s.ring.semFull ≠ 0 →
      n < s.cfg.ringCap → v = (s.ring.array s.ring.ri).get n →
      (n + 1 ≠ s.ring.rsize s.ring.ri →
        exec .ringPop s = .next
          (({ s with
              ring := { s.ring with semFull := f, rheld := true, rpos := n + 1 } }.count
            .xfer).respond .ok v)) ∧
      (n + 1 = s.ring.rsize s.ring.ri →
        exec .ringPop s = .next
          (({ s with
              ring := { s.ring.setRsize s.ring.ri 0 with
                semFull := f, semEmpty := s.ring.semEmpty + 1, ri := !s.ring.ri, rheld := false,
                rpos := 0 } }.count .xfer).respond .ok v)))

/-! ## The step -/

/-- A step is the next event of the script, or a free event where the script is empty (R255, log 2);
and a port that runs a command executes the decoded command (R98), be it new, waiting in the port and
tried again (log 5), or placed for the fetch (log 3). -/
def Obligations.StepRunsTheDecodedCommand : Prop :=
  (∀ (s : State) (e : Event) (rest : List Event), s.script = e :: rest →
    step s = runEvent e { s with script := rest }) ∧
  (∀ s : State, s.script = [] →
    step s = runEvent (Config.freeEvent s.draws) { s with draws := s.draws + 1 }) ∧
  (∀ (s : State) (p : PortId) (t : Txn) (rest : List Event) (i : Instr),
    s.script = .command p t :: rest → (s.port p).hold = .none → (s.port p).cmd = none →
    s.txTickEnabled = false → decode t = .ok i →
    step s = exec i
      ({ s with script := rest, active := p }.setPort p { s.port p with cmd := some t })) ∧
  (∀ (s : State) (p : PortId) (t : Txn) (rest : List Event) (i : Instr),
    s.script = .proceed p :: rest → (s.port p).hold = .none → (s.port p).cmd = some t →
    s.txTickEnabled = false → decode t = .ok i →
    step s = exec i { s with script := rest, active := p }) ∧
  (∀ (s : State) (nbits w : Nat) (i : Instr), decodeTableWord nbits w = some i →
    step (s.withFetchWord nbits w) = exec i
      { s with
        tickPending := false, active := .a,
        portA := ⟨.none, some (Txn.ofTableWord nbits w), s.portA.responses⟩ })

/-- R96: a word that selects no row is illegal, for the three reasons the rule gives; the command
answers ILLEGAL with VALUE 0, changes nothing else and does not hold the port. So does one that was
presented while TX_TICK was enabled and waited in its port, a case which is the model's (log 5). -/
def Obligations.IllegalCommandsChangeNothing : Prop :=
  (∀ (op sel : BitVec 8) (a b : Word),
    ((op ∉ ([0x00, 0x01, 0x02, 0x03, 0x10, 0x11, 0x12, 0x13, 0x20, 0x21, 0x28, 0x29, 0x30, 0x31,
        0x32, 0x33, 0x40, 0x41, 0x48, 0x49, 0x4A] : List (BitVec 8))) ∨
      (op ∈ ([0x00, 0x02, 0x03, 0x10, 0x11, 0x12, 0x13, 0x20, 0x21, 0x28, 0x29, 0x40, 0x41, 0x48,
        0x49, 0x4A] : List (BitVec 8)) ∧ sel ≠ 0) ∨
      (op ∈ ([0x30, 0x31, 0x32, 0x33] : List (BitVec 8)) ∧ 2 ≤ sel.toNat)) ↔
    ∃ r : Illegal, decode ⟨op ++ sel, a, b⟩ = .error r) ∧
  (∀ (s : State) (p : PortId) (t : Txn) (r : Illegal), s.portFree p = true →
    s.txTickEnabled = false → decode t = .error r →
    runEvent (.command p t) s = .next ({ s with active := p }.respond .illegal 0)) ∧
  (∀ (s : State) (p : PortId) (t : Txn) (r : Illegal), (s.port p).hold = .none →
    (s.port p).cmd = some t → s.txTickEnabled = false → decode t = .error r →
    runEvent (.proceed p) s = .next ({ s with active := p }.respond .illegal 0))

/-- R255 and R256: while TX_TICK is enabled no port step is taken (a command may only be presented),
and a port with a command in progress or a held RX_POLL accepts no other. That an event whose step is
not enabled leaves the state as it is, and that a presented command waits in its port, are the model's
(log 5, log 6). -/
def Obligations.TickGoesFirstAndBusyPortsAcceptNothing : Prop :=
  ∀ (s : State) (p : PortId) (t : Txn),
    (s.txTickEnabled = true → runEvent (.proceed p) s = .next s) ∧
    (s.txTickEnabled = true → s.portFree p = true →
      runEvent (.command p t) s = .next (s.setPort p { s.port p with cmd := some t })) ∧
    (((s.port p).cmd ≠ none ∨ (s.port p).hold ≠ .none) → runEvent (.command p t) s = .next s) ∧
    ((s.port p).cmd = none → (s.port p).hold = .none → runEvent (.proceed p) s = .next s)

/-- What reset leaves (R280), for every build and every number `n` of arrays made before it, and that
the power-on event is such a reset; no word of the six arrays is written, so each may be any value
(R27, R30). The fields `cfg`, `active`, `script`, `draws` and `seeds` are the model's own (log 1,
log 4, log 7). -/
def Obligations.ResetLeavesTheResetValues : Prop :=
  State.reset = State.resetAt Config.reference 0 ∧
  ∀ (c : Config) (n : Nat) (s : State),
    runEvent .powerOn s =
      .next { State.resetAt s.cfg s.seeds with script := s.script, draws := s.draws } ∧
    (c.wf = true → (State.resetAt c n).wf = true) ∧
    ∀ r : State, r = State.resetAt c n →
      r.fmtDepth = .d16 ∧ r.fmtRate = .r48000 ∧ r.tickPending = false ∧ r.genQ = [] ∧
      r.genState = .idle ∧ r.genCur = 0 ∧ r.pinOut = true ∧ r.detQ = [] ∧
      (∀ i : Inst, ∀ b : Half, ((r.db i).buf b).size = 0 ∧ ((r.db i).buf b).pos = 0 ∧
        ((r.db i).buf b).ready = false) ∧
      (∀ i : Inst, (r.db i).w = false ∧ (r.db i).r = false ∧ (r.db i).isOpen = false) ∧
      (∀ i : Inst, ∀ b : Half, ((r.db i).buf b).payload.written = []) ∧
      (∀ k : Half, (r.ring.array k).written = []) ∧
      r.fifoFull = false ∧ r.fifoWord = 0 ∧ r.ring.rsize0 = 0 ∧ r.ring.rsize1 = 0 ∧
      r.ring.semEmpty = 2 ∧ r.ring.semFull = 0 ∧ r.ring.wi = false ∧ r.ring.ri = false ∧
      r.ring.wheld = false ∧ r.ring.wcount = 0 ∧ r.ring.rheld = false ∧ r.ring.rpos = 0 ∧
      r.pdm = ⟨0, 0, 0, 0, 0⟩ ∧ (∀ k : CounterId, r.counters.get k = 0) ∧
      (∀ p : PortId, r.port p = ⟨.none, none, []⟩) ∧ r.pulses = [] ∧ r.cfg = c

/-! ## Invariants -/

/-- R28: the double-buffer invariants hold at reset, every step keeps them, and they are the six parts
of the rule. -/
def Obligations.DoubleBufferInvariantsAreKept : Prop :=
  (∀ (c : Config) (n : Nat) (i : Inst),
    dbWf c.dbCap (elementOk i .d16) ((State.resetAt c n).db i) = true) ∧
  (∀ (s t : State) (i : Inst), dbWf s.cfg.dbCap (elementOk i s.fmtDepth) (s.db i) = true →
    step s = .next t → dbWf t.cfg.dbCap (elementOk i t.fmtDepth) (t.db i) = true) ∧
  (∀ (cap : Nat) (p : Word → Bool) (d : DBuf), dbWf cap p d = true →
    (∀ b : Half, (d.buf b).pos ≤ (d.buf b).size ∧ (d.buf b).size ≤ cap) ∧
    (∀ b : Half, (d.buf b).ready = false → (d.buf b).pos = 0) ∧
    (d.isOpen = true → (d.buf d.w).ready = false) ∧
    (∀ b : Half, ¬ (producerOwns d b ∧ consumerOwns d b)) ∧
    (∀ b : Half, (d.buf b).ready = false → ¬ (d.isOpen = true ∧ b = d.w) → (d.buf b).size = 0) ∧
    (∀ k : Nat, k = (d.buf false).ready.toNat + (d.buf true).ready.toNat →
      d.w.toNat = (d.r.toNat + k) % 2 ∧ (1 ≤ k → (d.buf d.r).ready = true) ∧
        (k = 2 → (d.buf (!d.r)).ready = true)))

/-- R30: `SEM_EMPTY + SEM_FULL + WHELD + RHELD = 2`, with the bounds of the cursors, holds at reset and
is kept by every step. -/
def Obligations.RingInvariantIsKept : Prop :=
  (∀ (c : Config) (n : Nat), ringWf c.ringCap c.ringBatch (State.resetAt c n).ring = true) ∧
  (∀ s t : State, s.cfg.wf = true → ringWf s.cfg.ringCap s.cfg.ringBatch s.ring = true →
    step s = .next t → ringWf t.cfg.ringCap t.cfg.ringBatch t.ring = true) ∧
  (∀ (cap batch : Nat) (r : Ring), ringWf cap batch r = true → batch ≤ cap →
    r.semEmpty + r.semFull + r.wheld.toNat + r.rheld.toNat = 2 ∧ r.semEmpty ≤ 2 ∧ r.semFull ≤ 2 ∧
    (∀ k : Half, r.rsize k ≤ cap) ∧ r.wcount ≤ cap ∧ r.rpos ≤ cap)

/-- Every step keeps the whole of `State.wf`: the build's ranges, the queue depths, the pin, no
zero-length pulse, both double buffers, the ring, the modulator and the held ports. -/
def Obligations.EveryStepKeepsTheStateWellFormed : Prop :=
  ∀ s t : State, s.wf = true → step s = .next t → t.wf = true

/-- R252: in a well-formed state every step answers a next state, and in no state is a command
refused. The fault it rules out is the model's own (log 7). -/
def Obligations.NoStepFaults : Prop :=
  (∀ s : State, s.wf = true → ∃ t : State, step s = .next t) ∧
  (∀ (s : State) (r : Refusal), step s ≠ .refused r)

/-- R251: a command that answers a status of 5 to 15 changes no state at all but its response. -/
def Obligations.RejectionsChangeNoState : Prop :=
  ∀ (i : Instr) (s t : State) (st : Status) (v : Word), exec i s = .next t →
    answered s.active s t ⟨st, v⟩ → 5 ≤ st.code.toNat → t = s.respond st v

/-- R250: the codes, which command may return which, and when VALUE must be 0; every command that
takes its step gives exactly one response, on the port that issued it, unless it waits or is an
RX_POLL that enters FWD. -/
def Obligations.ResponsesAreThoseOfTheTable : Prop :=
  [Status.ok, .empty, .busy, .pdmWord, .noise, .erange, .eformat, .emode, .eseq, .ecsr,
    .illegal].map (fun x => x.code.toNat) = [0, 1, 2, 3, 4, 5, 6, 7, 8, 9, 15] ∧
  ∀ (i : Instr) (s t : State), exec i s = .next t →
    t.port (otherPort s.active) = s.port (otherPort s.active) ∧
    ((waits i s = true ∧ t = s) ∨
      (i = .rxPoll ∧ s.cfg.channelMode = .fifo ∧
        (t.port s.active).responses = (s.port s.active).responses ∧
        ∃ v : Word, (t.port s.active).hold = .fwd v) ∨
      ∃ (st : Status) (v : Word), answered s.active s t ⟨st, v⟩ ∧
        (t.port s.active).cmd = none ∧
        st ∈ mayAnswer i ∧
        (v = 0 ∨ st = .ok ∨ st = .pdmWord ∨ st = .noise ∨ (st = .busy ∧ i = .rxPoll) ∨
          (st = .erange ∧ (∃ (k : Inst) (x : Word), i = .dbPut k x) ∧
            v = BitVec.ofNat 32 s.cfg.dbCap)))

/-- R256: a command leaves the state as it is exactly where it waits, and only GEN_PUSH, FIFO_PUSH and
FIFO_POP wait. That a waiting command's step answers the unchanged state is the model's (log 5). -/
def Obligations.OnlyTheThreeBlockingCommandsWait : Prop :=
  ∀ (i : Instr) (s : State), exec i s = .next s ↔
    (∃ w : Word, i = .genPush w ∧ w ≠ 0 ∧ s.cfg.genQDepth ≤ s.genQ.length) ∨
    (∃ w : Word, i = .fifoPush w ∧ s.cfg.channelMode = .fifo ∧ s.fifoFull = true) ∨
    (i = .fifoPop ∧ s.cfg.channelMode = .fifo ∧ s.fifoFull = false)

/-! ## Whole-machine rules -/

/-- R264: the ports are symmetric. Exchanging the ports before an event or after it gives the same
state; the reset alone tells them apart, by the model's own `active` (log 4). -/
def Obligations.ThePortsAreSymmetric : Prop :=
  ∀ (e : Event) (s : State), e ≠ .powerOn →
    runEvent (swapEvent e) s.swapPorts = mapNext State.swapPorts (runEvent e s)

/-- R40: "No rule other than CSR_READ reads a counter". What the block does, but for its counters, does
not depend on their values. -/
def Obligations.CountersAreReadOnlyByCsrRead : Prop :=
  (∀ (i : Instr) (s : State), (∀ csr : BitVec 8, i ≠ .csrRead csr) →
    mapNext State.forgetCounters (exec i s) =
      mapNext State.forgetCounters (exec i s.forgetCounters)) ∧
  (∀ (e : Event) (s : State), (∀ (p : PortId) (t : Txn), e ≠ .command p t) →
    (∀ p : PortId, e ≠ .proceed p) →
    mapNext State.forgetCounters (runEvent e s) =
      mapNext State.forgetCounters (runEvent e s.forgetCounters))

/-- R12, R23, R25, R31, R140, R142, R234: the build never changes; no event but a power-on changes the
format unless it runs a SET_FORMAT, or the modulator unless it runs a PDM_STEP; and only the
generator's own steps write the pin, its phase, its current width and the pulse record (GEN_Q they
share with GEN_PUSH and the tick). -/
def Obligations.OnlyTheirOwnCommandsWriteFormatAndModulator : Prop :=
  (∀ s t : State, step s = .next t → t.cfg = s.cfg) ∧
  (∀ (i : Instr) (s t : State), exec i s = .next t →
    ((∀ a b : Word, i ≠ .setFormat a b) → t.fmtDepth = s.fmtDepth ∧ t.fmtRate = s.fmtRate) ∧
    ((∀ x : Word, i ≠ .pdmStep x) → t.pdm = s.pdm) ∧
    t.pinOut = s.pinOut ∧ t.genState = s.genState ∧ t.genCur = s.genCur ∧ t.pulses = s.pulses) ∧
  (∀ (e : Event) (s t : State), e ≠ .powerOn → runEvent e s = .next t →
    ((∀ (p : PortId) (x : Txn) (a b : Word), runsTxn e s p x → decode x ≠ .ok (.setFormat a b)) →
      t.fmtDepth = s.fmtDepth ∧ t.fmtRate = s.fmtRate) ∧
    ((∀ (p : PortId) (x : Txn) (w : Word), runsTxn e s p x → decode x ≠ .ok (.pdmStep w)) →
      t.pdm = s.pdm) ∧
    (e ≠ .genStart → e ≠ .genEnd →
      t.pinOut = s.pinOut ∧ t.genState = s.genState ∧ t.genCur = s.genCur ∧ t.pulses = s.pulses))

/-- R80 and R186: no step but a power-on writes the payload of a ready buffer, or changes its size
while it stays ready. -/
def Obligations.ReadyBuffersAreNotWritten : Prop :=
  ∀ (s t : State) (e : Event) (i : Inst) (b : Half), e ≠ .powerOn →
    dbWf s.cfg.dbCap (elementOk i s.fmtDepth) (s.db i) = true → ((s.db i).buf b).ready = true →
    runEvent e s = .next t →
    ((t.db i).buf b).payload = ((s.db i).buf b).payload ∧
    (((t.db i).buf b).ready = true → ((t.db i).buf b).size = ((s.db i).buf b).size)

/-- R143: (1) and (2) the widths that entered GEN_Q come out as pulses, each once and in order: no event
but a power-on takes one away or reorders them, and the generator's own steps add none; (3) no pulse
starts in a low phase, where the start step is not enabled and the event answers the unchanged state,
which is the model's choice (log 6); (4) between pulses the pin is high, which every step keeps. -/
def Obligations.GeneratorKeepsItsContract : Prop :=
  (∀ (s t : State) (e : Event), e ≠ .powerOn → runEvent e s = .next t →
    ∃ added : List Word, t.widths = s.widths ++ added ∧
      (e = .genStart ∨ e = .genEnd → added = [])) ∧
  (∀ s : State, s.genState = .low → runEvent .genStart s = .next s) ∧
  (∀ s t : State, (s.pinOut = decide (s.genState = .idle)) → step s = .next t →
    t.pinOut = decide (t.genState = .idle))

/-- R211 (1) to (3): the ring is a queue. An append that answers OK adds its word at the end, one that
answers BUSY adds none and counts one drop; a flush changes nothing of the contents; a pop takes the
oldest published word, and finds none exactly where none is published. -/
def Obligations.RingIsAQueue : Prop :=
  ∀ s : State, s.cfg.wf = true → s.cfg.channelMode = .ring →
    ringWf s.cfg.ringCap s.cfg.ringBatch s.ring = true →
    (∀ w : Word, ∃ t : State, exec (.ringAppend w) s = .next t ∧
      ((∃ v : Word, answered s.active s t ⟨.ok, v⟩ ∧ t.ring.contents = s.ring.contents ++ [w] ∧
          t.counters = s.counters) ∨
        (answered s.active s t ⟨.busy, 0⟩ ∧ t.ring = s.ring ∧
          t.counters = { s.counters with ringDrop := s.counters.ringDrop + 1 }))) ∧
    (∃ t : State, exec .ringFlush s = .next t ∧ t.ring.contents = s.ring.contents ∧
      t.ring.batch = []) ∧
    (s.ring.unread = [] → exec .ringPop s = .next (s.respond .empty 0)) ∧
    (∀ (v : Word) (rest : List Word), s.ring.unread = v :: rest →
      ∃ t : State, exec .ringPop s = .next t ∧ answered s.active s t ⟨.ok, v⟩ ∧
        t.ring.unread = rest ∧ t.ring.batch = s.ring.batch)

/-- R80, R184, R186: a double buffer is a queue of published elements beside an open unit. DB_PUT
extends the unit; DB_COMMIT publishes the whole of it; DB_GET (on RX) and TX_TICK (on TX) take the
oldest published element, and find none exactly where none is published. -/
def Obligations.DoubleBufferIsAQueueOfUnits : Prop :=
  (∀ (s t : State) (i : Inst) (x v : Word),
    dbWf s.cfg.dbCap (elementOk i s.fmtDepth) (s.db i) = true → exec (.dbPut i x) s = .next t →
    answered s.active s t ⟨.ok, v⟩ →
    (t.db i).openUnit = (s.db i).openUnit ++ [x] ∧ (t.db i).unread = (s.db i).unread) ∧
  (∀ (s t : State) (i : Inst) (v : Word),
    dbWf s.cfg.dbCap (elementOk i s.fmtDepth) (s.db i) = true → exec (.dbCommit i) s = .next t →
    answered s.active s t ⟨.ok, v⟩ →
    (t.db i).openUnit = [] ∧ (t.db i).unread = (s.db i).unread ++ (s.db i).openUnit) ∧
  (∀ s : State, dbWf s.cfg.dbCap (elementOk .rx s.fmtDepth) s.dbRx = true →
    (s.dbRx.unread = [] → exec (.dbGet .rx) s = .next (s.respond .empty 0)) ∧
    (∀ (v : Word) (rest : List Word), s.dbRx.unread = v :: rest →
      ∃ t : State, exec (.dbGet .rx) s = .next t ∧ answered s.active s t ⟨.ok, v⟩ ∧
        t.dbRx.unread = rest ∧ t.dbRx.openUnit = s.dbRx.openUnit)) ∧
  (∀ s : State, dbWf s.cfg.dbCap (elementOk .tx s.fmtDepth) s.dbTx = true →
    s.txTickEnabled = true →
    (s.dbTx.unread = [] → ∃ t : State, runEvent .txTick s = .next t ∧ t.dbTx = s.dbTx ∧
      t.genQ = s.genQ ++ [silenceWidth s.cfg]) ∧
    (∀ (c : Word) (rest : List Word), s.dbTx.unread = c :: rest →
      ∃ t : State, runEvent .txTick s = .next t ∧ t.genQ = s.genQ ++ [widthSent s.cfg c] ∧
        c.toNat ≤ 1023 ∧ t.dbTx.unread = rest ∧ t.dbTx.openUnit = s.dbTx.openUnit))

/-! ## Encoding -/

/-- R95: the opcode map, row by row, and that exactly one row, or none, selects a command word. -/
def Obligations.AtMostOneRowSelectsAWord : Prop :=
  rows.map (fun r => (r.mnemonic, r.matchBits, r.mask)) =
    [("NOP", 0x0000, 0xFFFF), ("CSR_READ", 0x0100, 0xFF00), ("SET_FORMAT", 0x0200, 0xFFFF),
      ("STATS_CLEAR", 0x0300, 0xFFFF), ("PPM_ENCODE", 0x1000, 0xFFFF),
      ("PPM_DECODE", 0x1100, 0xFFFF), ("DOWNMIX", 0x1200, 0xFFFF), ("PDM_STEP", 0x1300, 0xFFFF),
      ("GEN_PUSH", 0x2000, 0xFFFF), ("DET_POP", 0x2100, 0xFFFF), ("RX_CORRECT", 0x2800, 0xFFFF),
      ("RX_POLL", 0x2900, 0xFFFF), ("DB_BEGIN", 0x3000, 0xFFFE), ("DB_PUT", 0x3100, 0xFFFE),
      ("DB_COMMIT", 0x3200, 0xFFFE), ("DB_GET", 0x3300, 0xFFFE), ("FIFO_PUSH", 0x4000, 0xFFFF),
      ("FIFO_POP", 0x4100, 0xFFFF), ("RING_APPEND", 0x4800, 0xFFFF),
      ("RING_FLUSH", 0x4900, 0xFFFF), ("RING_POP", 0x4A00, 0xFFFF)] ∧
  (∀ w : BitVec 16, (rows.filter (fun r => w &&& r.mask == r.matchBits)).length ≤ 1) ∧
  (∀ (t : Txn) (i : Instr), decode t = .ok i ↔
    ∃ r ∈ rows, t.cmd &&& r.mask = r.matchBits ∧ i = r.build t)

/-- R93: an operand a command does not name is ignored, whatever its value. -/
def Obligations.UnusedOperandsAreIgnored : Prop :=
  ∀ (op sel : BitVec 8) (a b a' b' : Word),
    (op ∉ ([0x02, 0x12] : List (BitVec 8)) →
      decode ⟨op ++ sel, a, b⟩ = decode ⟨op ++ sel, a, b'⟩) ∧
    (op ∉ ([0x02, 0x10, 0x11, 0x12, 0x13, 0x20, 0x28, 0x31, 0x40, 0x48] : List (BitVec 8)) →
      decode ⟨op ++ sel, a, b⟩ = decode ⟨op ++ sel, a', b'⟩)

/-- Decode and encode agree on every command: decoding an encoded command gives it back, with every
operand, and a word that decodes is the command word of what it decodes to. -/
def Obligations.DecodeInvertsEncode : Prop :=
  (∀ i : Instr, decode (encode i) = .ok i) ∧
  (∀ (t : Txn) (i : Instr), decode t = .ok i → (encode i).cmd = t.cmd)

/-- R72: the bytes behind a little-endian bridge carry the transaction: the round trip through bytes
gives every command back, and byte 0 of a word is its bits 7:0. That the bytes come in the order CMD,
A, B is the model's choice (log 11). -/
def Obligations.BytesRoundTrip : Prop :=
  (∀ i : Instr, decodeBytes (encodeBytes i) = .ok i) ∧
  (∀ t : Txn, Txn.ofBytes t.toBytes = some t ∧
    t.toBytes.map BitVec.toNat =
      [t.cmd.toNat % 256, t.cmd.toNat / 256,
        t.a.toNat % 256, t.a.toNat / 256 % 256, t.a.toNat / 65536 % 256, t.a.toNat / 16777216,
        t.b.toNat % 256, t.b.toNat / 256 % 256, t.b.toNat / 65536 % 256, t.b.toNat / 16777216])

/-- A word of each family, written out from R95 and R99, decodes to its command. -/
def Obligations.SampleWordsDecode : Prop :=
  decode ⟨0x0200, 0x0000AC44, 0x00000018⟩ = .ok (.setFormat 44100 24) ∧
  decode ⟨0x0103, 0, 0⟩ = .ok (.csrRead 3) ∧
  decode ⟨0x1000, 0xFFFF8000, 0⟩ = .ok (.ppmEncode (BitVec.ofInt 32 (-32768))) ∧
  decode ⟨0x2000, 0x00000064, 0⟩ = .ok (.genPush 100) ∧
  decode ⟨0x2900, 0, 0⟩ = .ok .rxPoll ∧
  decode ⟨0x3101, 0x00000040, 0⟩ = .ok (.dbPut .rx 64) ∧
  decode ⟨0x4A00, 0, 0⟩ = .ok .ringPop

/-- R99 and R100: the three assembler examples of R99, and the expansions of R100. What R99 leaves open
of the syntax is the model's choice, and so is that a DB_UNIT may have no element (log 10). -/
def Obligations.AssemblerFollowsItsSyntax : Prop :=
  ∀ c : Config,
    assemble c "PPM_ENCODE -32768" = some [⟨0x1000, 0xFFFF8000, 0⟩] ∧
    assemble c "DB_PUT rx, 64" = some [⟨0x3101, 0x00000040, 0⟩] ∧
    assemble c "CSR_READ STATUS" = some [⟨0x0103, 0, 0⟩] ∧
    (∀ k : Fin 1024, (Pseudo.sendCode k).expand c =
      [.genPush (BitVec.ofNat 32 (c.minIntervalCycles + k.val))]) ∧
    Pseudo.silence.expand c = [.genPush (BitVec.ofNat 32 c.minIntervalCycles)] ∧
    Pseudo.rdStatus.expand c = [.csrRead 3] ∧
    (∀ (i : Inst) (vs : List Word), (Pseudo.dbUnit i vs).expand c =
      .dbBegin i :: (vs.map (.dbPut i ·) ++ [.dbCommit i])) ∧
    (∀ v : Word, (Pseudo.chSend v).expand c =
      [if c.channelMode = .fifo then .fifoPush v else .ringAppend v]) ∧
    Pseudo.chRecv.expand c = [if c.channelMode = .fifo then .fifoPop else .ringPop]
end

