-- ==== Sys2Proof/Laws/Memory.lean ====
section
/-! SUPPORT. The laws of the internal arrays (R70): a read after a write gives the word written, a
write leaves every other word alone, and every operation keeps the canonical form, in which equal
contents are equal data. -/

namespace Sys2Proof.Machine

/-! ## The written words -/

theorem Cells.lookup_insert (m : Cells) (j k : Nat) (v : Word) :
    (m.insert j v).lookup k = if k = j then some v else m.lookup k := by
  induction m with
  | nil => simp only [Cells.insert, Cells.lookup, eq_comm]
  | cons e rest ih =>
    obtain ⟨i, u⟩ := e
    by_cases hlt : j < i
    · simp only [Cells.insert, if_pos hlt, Cells.lookup, eq_comm (a := j)]
    · by_cases heq : j = i
      · subst heq
        simp only [Cells.insert, if_neg hlt, if_true, Cells.lookup, eq_comm (a := j)]
        by_cases hk : k = j
        · simp only [hk, if_true]
        · simp only [hk, if_false]
      · simp only [Cells.insert, if_neg hlt, if_neg heq, Cells.lookup, ih]
        by_cases hi : i = k
        · rw [if_pos hi, if_pos hi, if_neg (by omega)]
        · rw [if_neg hi, if_neg hi]

theorem Cells.risingFrom_mono {m : Cells} {lo lo' : Nat} (h : Cells.risingFrom lo m = true)
    (hle : lo' ≤ lo) : Cells.risingFrom lo' m = true := by
  cases m with
  | nil => rfl
  | cons e rest =>
    obtain ⟨i, u⟩ := e
    simp only [Cells.risingFrom, Bool.and_eq_true, decide_eq_true_eq] at h ⊢
    exact ⟨hle.trans h.1, h.2⟩

theorem Cells.risingFrom_insert (m : Cells) (lo j : Nat) (v : Word)
    (h : Cells.risingFrom lo m = true) (hj : lo ≤ j) :
    Cells.risingFrom lo (m.insert j v) = true := by
  induction m generalizing lo with
  | nil => simp [Cells.insert, Cells.risingFrom, hj]
  | cons e rest ih =>
    obtain ⟨i, u⟩ := e
    simp only [Cells.risingFrom, Bool.and_eq_true, decide_eq_true_eq] at h
    simp only [Cells.insert]
    split
    · rename_i hji
      simp only [Cells.risingFrom, Bool.and_eq_true, decide_eq_true_eq]
      exact ⟨hj, hji, h.2⟩
    · split
      · rename_i hji
        subst hji
        simp only [Cells.risingFrom, Bool.and_eq_true, decide_eq_true_eq]
        exact h
      · rename_i h1 h2
        simp only [Cells.risingFrom, Bool.and_eq_true, decide_eq_true_eq]
        exact ⟨h.1, ih (i + 1) h.2 (by omega)⟩

theorem Cells.lookup_below {m : Cells} {lo j : Nat} (h : Cells.risingFrom lo m = true)
    (hj : j < lo) : m.lookup j = none := by
  induction m generalizing lo with
  | nil => rfl
  | cons e rest ih =>
    obtain ⟨i, u⟩ := e
    simp only [Cells.risingFrom, Bool.and_eq_true, decide_eq_true_eq] at h
    simp only [Cells.lookup]
    rw [if_neg (by omega)]
    exact ih h.2 (by omega)

theorem Cells.risingFrom_ext {m n : Cells} {lo : Nat} (hm : Cells.risingFrom lo m = true)
    (hn : Cells.risingFrom lo n = true) (h : ∀ j, m.lookup j = n.lookup j) : m = n := by
  induction m generalizing n lo with
  | nil =>
    cases n with
    | nil => rfl
    | cons e rest =>
      obtain ⟨i, u⟩ := e
      simpa [Cells.lookup] using h i
  | cons e rest ih =>
    obtain ⟨i, u⟩ := e
    cases n with
    | nil => simpa [Cells.lookup] using h i
    | cons e' rest' =>
      obtain ⟨i', u'⟩ := e'
      simp only [Cells.risingFrom, Bool.and_eq_true, decide_eq_true_eq] at hm hn
      have hi : i = i' := by
        rcases Nat.lt_trichotomy i i' with hlt | heq | hgt
        · have := h i
          simp [Cells.lookup, Nat.ne_of_gt hlt, Cells.lookup_below hn.2 (by omega : i < i' + 1)]
            at this
        · exact heq
        · have := h i'
          simp [Cells.lookup, Nat.ne_of_gt hgt, Cells.lookup_below hm.2 (by omega : i' < i + 1)]
            at this
      subst hi
      have hu : u = u' := by simpa [Cells.lookup] using h i
      subst hu
      have hrest : rest = rest' := by
        refine ih hm.2 hn.2 fun j => ?_
        by_cases hj : j < i + 1
        · rw [Cells.lookup_below hm.2 hj, Cells.lookup_below hn.2 hj]
        · have := h j
          simpa [Cells.lookup, show i ≠ j by omega] using this
      rw [hrest]

/-! ## Reading after writing -/

@[simp] theorem Memory.lookup_unwritten (n j : Nat) : (Memory.unwritten n).lookup j = none := rfl

/-- A word that nothing has written since reset is the free word of its index (I1, I2). -/
@[simp] theorem Memory.get_unwritten (n j : Nat) :
    (Memory.unwritten n).get j = Config.freeWord n j := rfl

@[simp] theorem Memory.insert_seed (m : Memory) (j : Nat) (v : Word) :
    (m.insert j v).seed = m.seed := rfl

theorem Memory.get_eq_of_lookup {m : Memory} {j : Nat} {v : Word} (h : m.lookup j = some v) :
    m.get j = v := by
  simp [Memory.get, h]

theorem Memory.lookup_insert (m : Memory) (j k : Nat) (v : Word) :
    (m.insert j v).lookup k = if k = j then some v else m.lookup k :=
  Cells.lookup_insert m.written j k v

@[simp] theorem Memory.lookup_insert_self (m : Memory) (j : Nat) (v : Word) :
    (m.insert j v).lookup j = some v := by
  simp [Memory.lookup_insert]

theorem Memory.get_insert (m : Memory) (j k : Nat) (v : Word) :
    (m.insert j v).get k = if k = j then v else m.get k := by
  simp only [Memory.get, Memory.lookup_insert, Memory.insert_seed]
  split <;> rfl

@[simp] theorem Memory.get_insert_self (m : Memory) (j : Nat) (v : Word) :
    (m.insert j v).get j = v := by
  simp [Memory.get_insert]

theorem Memory.get_insert_other (m : Memory) {j k : Nat} (v : Word) (h : k ≠ j) :
    (m.insert j v).get k = m.get k := by
  simp [Memory.get_insert, h]

/-! ## The canonical form -/

@[simp] theorem Memory.wf_unwritten (n : Nat) : (Memory.unwritten n).wf = true := rfl

/-- A write keeps the canonical form. -/
theorem Memory.wf_insert (m : Memory) (j : Nat) (v : Word) (h : m.wf = true) :
    (m.insert j v).wf = true :=
  Cells.risingFrom_insert m.written 0 j v h (Nat.zero_le j)

/-- Equal memories are equal data: the seed is the array at reset, and the rest is what was written
since. -/
theorem Memory.wf_ext {m n : Memory} (hm : m.wf = true) (hn : n.wf = true)
    (hs : m.seed = n.seed) (h : ∀ j, m.lookup j = n.lookup j) : m = n := by
  have hw : m.written = n.written := Cells.risingFrom_ext hm hn h
  cases m
  simp_all

/-! ## `memRead` and `memWrite` -/

/-- All that `memRead` can answer. -/
theorem memRead_eq (n : Nat) (m : Memory) (j : Nat) :
    memRead n m j = if j < n then .ok (m.get j) else .error .arrayBounds := rfl

theorem memRead_eq_ok {n : Nat} {m : Memory} {j : Nat} {v : Word} :
    memRead n m j = .ok v ↔ j < n ∧ m.get j = v := by
  rw [memRead_eq]
  split <;> simp_all

/-- All that `memWrite` can answer. -/
theorem memWrite_eq (n : Nat) (m : Memory) (j : Nat) (v : Word) :
    memWrite n m j v = if j < n then .ok (m.insert j v) else .error .arrayBounds := rfl

theorem memWrite_eq_ok {n : Nat} {m m' : Memory} {j : Nat} {v : Word} :
    memWrite n m j v = .ok m' ↔ j < n ∧ m' = m.insert j v := by
  rw [memWrite_eq]
  split
  · simp_all [eq_comm]
  · simp_all

/-- Every memory operation keeps the canonical form. -/
theorem memWrite_wf {n : Nat} {m m' : Memory} {j : Nat} {v : Word} (hm : m.wf = true)
    (h : memWrite n m j v = .ok m') : m'.wf = true := by
  rw [memWrite_eq_ok] at h
  rw [h.2]
  exact Memory.wf_insert m j v hm

/-- Every array has the canonical form at reset. -/
theorem resetAt_memory_wf (c : Config) (n : Nat) (i : Inst) (b : Half) :
    (((State.resetAt c n).db i).buf b).payload.wf = true ∧
      ((State.resetAt c n).ring.array b).wf = true := by
  cases i <;> cases b <;> exact ⟨rfl, rfl⟩

end Sys2Proof.Machine
end

