-- ==== Sys2Proof/Laws/Arrays.lean ====
section
/-! SUPPORT. The laws of the terms of Safety.lean over arrays, and of the fields of a register. -/

namespace Sys2Proof.Machine

/-! ## Words below an index -/

theorem Memory.holdsBelow_iff (m : Memory) (n : Nat) (p : Word → Bool) :
    m.holdsBelow n p = true ↔ ∀ j < n, ∃ v, m.lookup j = some v ∧ p v = true := by
  simp only [Memory.holdsBelow, List.all_eq_true, List.mem_range]
  refine forall₂_congr fun j _ => ?_
  cases m.lookup j <;> simp

theorem Memory.holdsBelow_insert {m : Memory} {n : Nat} {p : Word → Bool} {v : Word}
    (h : m.holdsBelow n p = true) (hv : p v = true) : (m.insert n v).holdsBelow (n + 1) p = true := by
  rw [Memory.holdsBelow_iff] at h ⊢
  intro j hj
  rw [Memory.lookup_insert]
  by_cases hjn : j = n
  · exact ⟨v, by simp [hjn], hv⟩
  · simpa [hjn] using h j (by omega)

theorem Memory.holdsBelow_zero (m : Memory) (p : Word → Bool) : m.holdsBelow 0 p = true := by
  simp [Memory.holdsBelow]

/-- A word below an index at which every word is written: it is the one written, and `p` holds. -/
theorem Memory.holdsBelow_get {m : Memory} {n j : Nat} {p : Word → Bool}
    (h : m.holdsBelow n p = true) (hj : j < n) : p (m.get j) = true := by
  obtain ⟨v, hv, hp⟩ := (Memory.holdsBelow_iff m n p).1 h j hj
  rwa [Memory.get_eq_of_lookup hv]

theorem Memory.below_insert {m : Memory} {cap j : Nat} {v : Word} (h : m.below cap = true)
    (hj : j < cap) : (m.insert j v).below cap = true := by
  obtain ⟨n, m⟩ := m
  simp only [Memory.below, Memory.insert] at h ⊢
  induction m with
  | nil => simpa [Cells.insert] using hj
  | cons e rest ih =>
    simp only [List.all_cons, Bool.and_eq_true, decide_eq_true_eq] at h
    simp only [Cells.insert]
    split
    · simp only [List.all_cons, Bool.and_eq_true, decide_eq_true_eq]
      exact ⟨hj, h⟩
    · split
      · simp only [List.all_cons, Bool.and_eq_true, decide_eq_true_eq]
        exact ⟨hj, h.2⟩
      · simp only [List.all_cons, Bool.and_eq_true, decide_eq_true_eq]
        exact ⟨h.1, ih h.2⟩

/-- A write inside an array keeps its form. -/
theorem Memory.fits_insert {m : Memory} {cap j : Nat} {v : Word} (h : m.fits cap = true)
    (hj : j < cap) : (m.insert j v).fits cap = true := by
  simp only [Memory.fits, Bool.and_eq_true] at h ⊢
  exact ⟨Memory.wf_insert m j v h.1, Memory.below_insert h.2 hj⟩

/-! ## Slices -/

@[simp] theorem Memory.slice_self (m : Memory) (lo : Nat) : m.slice lo lo = [] := by
  simp [Memory.slice]

theorem Memory.slice_of_le {m : Memory} {lo hi : Nat} (h : hi ≤ lo) : m.slice lo hi = [] := by
  simp [Memory.slice, Nat.sub_eq_zero_of_le h]

/-- The first word of a slice. -/
theorem Memory.slice_cons (m : Memory) {lo hi : Nat} (h : lo < hi) :
    m.slice lo hi = m.get lo :: m.slice (lo + 1) hi := by
  obtain ⟨n, rfl⟩ : ∃ n, hi = lo + (n + 1) := ⟨hi - lo - 1, by omega⟩
  rw [Memory.slice, Memory.slice, show lo + (n + 1) - lo = n + 1 by omega,
    show lo + (n + 1) - (lo + 1) = n by omega, List.range_succ_eq_map]
  simp [Nat.add_comm, Nat.add_left_comm]

/-- The last word of a slice. -/
theorem Memory.slice_snoc (m : Memory) {lo hi : Nat} (h : lo ≤ hi) :
    m.slice lo (hi + 1) = m.slice lo hi ++ [m.get hi] := by
  obtain ⟨n, rfl⟩ : ∃ n, hi = lo + n := ⟨hi - lo, by omega⟩
  rw [Memory.slice, Memory.slice, show lo + n + 1 - lo = n + 1 by omega,
    show lo + n - lo = n by omega, List.range_succ]
  simp

/-- A slice reads only its own indices. -/
theorem Memory.slice_congr {m m' : Memory} {lo hi : Nat}
    (h : ∀ j, lo ≤ j → j < hi → m.get j = m'.get j) : m.slice lo hi = m'.slice lo hi := by
  refine List.map_congr_left fun k hk => h (lo + k) (by omega) ?_
  rw [List.mem_range] at hk
  omega

/-- A word written at the end of a slice is added to it. -/
theorem Memory.slice_insert_end (m : Memory) {lo n : Nat} (v : Word) (h : lo ≤ n) :
    (m.insert n v).slice lo (n + 1) = m.slice lo n ++ [v] := by
  rw [Memory.slice_snoc _ h, Memory.get_insert_self]
  congr 1
  exact Memory.slice_congr fun j _ hj => Memory.get_insert_other m v (by omega)

/-! ## Fields of a register -/

theorem bitField_getLsbD (b : Bool) {lo : Nat} (hlo : lo < 32) (j : Nat) :
    (bitField b lo).getLsbD j = (b && decide (j = lo)) := by
  cases b
  · simp [bitField]
  · simp only [bitField, if_true, BitVec.getLsbD_shiftLeft, BitVec.getLsbD_one, Bool.true_and]
    by_cases h : j = lo
    · simp [h, hlo]
    · by_cases h1 : j < lo
      · simp [h, h1]
      · have : ¬ (j - lo = 0) := by omega
        simp [h, this]

theorem field_getLsbD (v w lo j : Nat) :
    (field v w lo).getLsbD j =
      (decide (j < 32) && decide (lo ≤ j) && decide (j - lo < w) && v.testBit (j - lo)) := by
  simp only [field, natU32, BitVec.getLsbD_shiftLeft, BitVec.getLsbD_ofNat, Nat.testBit_mod_two_pow]
  by_cases h1 : j < 32
  · by_cases h2 : lo ≤ j
    · simp [h1, h2, Nat.not_lt.2 h2, show j - lo < 32 by omega]
    · simp [h2, Nat.lt_of_not_le h2]
  · simp [h1]

end Sys2Proof.Machine
end

