-- ==== Sys2Proof/Laws/State.lean ====
section
/-! SUPPORT. What each update of the state leaves in each field, so that no later proof unfolds a
record update. -/

namespace Sys2Proof.Machine


/-! ## `setPort` -/

@[simp] theorem State.setPort_cfg (s : State) (p : PortId) (x : PortState) :
    (s.setPort p x).cfg = s.cfg := by cases p <;> rfl
@[simp] theorem State.setPort_fmtDepth (s : State) (p : PortId) (x : PortState) :
    (s.setPort p x).fmtDepth = s.fmtDepth := by cases p <;> rfl
@[simp] theorem State.setPort_fmtRate (s : State) (p : PortId) (x : PortState) :
    (s.setPort p x).fmtRate = s.fmtRate := by cases p <;> rfl
@[simp] theorem State.setPort_tickPending (s : State) (p : PortId) (x : PortState) :
    (s.setPort p x).tickPending = s.tickPending := by cases p <;> rfl
@[simp] theorem State.setPort_genQ (s : State) (p : PortId) (x : PortState) :
    (s.setPort p x).genQ = s.genQ := by cases p <;> rfl
@[simp] theorem State.setPort_genState (s : State) (p : PortId) (x : PortState) :
    (s.setPort p x).genState = s.genState := by cases p <;> rfl
@[simp] theorem State.setPort_genCur (s : State) (p : PortId) (x : PortState) :
    (s.setPort p x).genCur = s.genCur := by cases p <;> rfl
@[simp] theorem State.setPort_pinOut (s : State) (p : PortId) (x : PortState) :
    (s.setPort p x).pinOut = s.pinOut := by cases p <;> rfl
@[simp] theorem State.setPort_detQ (s : State) (p : PortId) (x : PortState) :
    (s.setPort p x).detQ = s.detQ := by cases p <;> rfl
@[simp] theorem State.setPort_dbTx (s : State) (p : PortId) (x : PortState) :
    (s.setPort p x).dbTx = s.dbTx := by cases p <;> rfl
@[simp] theorem State.setPort_dbRx (s : State) (p : PortId) (x : PortState) :
    (s.setPort p x).dbRx = s.dbRx := by cases p <;> rfl
@[simp] theorem State.setPort_fifoFull (s : State) (p : PortId) (x : PortState) :
    (s.setPort p x).fifoFull = s.fifoFull := by cases p <;> rfl
@[simp] theorem State.setPort_fifoWord (s : State) (p : PortId) (x : PortState) :
    (s.setPort p x).fifoWord = s.fifoWord := by cases p <;> rfl
@[simp] theorem State.setPort_ring (s : State) (p : PortId) (x : PortState) :
    (s.setPort p x).ring = s.ring := by cases p <;> rfl
@[simp] theorem State.setPort_pdm (s : State) (p : PortId) (x : PortState) :
    (s.setPort p x).pdm = s.pdm := by cases p <;> rfl
@[simp] theorem State.setPort_counters (s : State) (p : PortId) (x : PortState) :
    (s.setPort p x).counters = s.counters := by cases p <;> rfl
@[simp] theorem State.setPort_pulses (s : State) (p : PortId) (x : PortState) :
    (s.setPort p x).pulses = s.pulses := by cases p <;> rfl
@[simp] theorem State.setPort_active (s : State) (p : PortId) (x : PortState) :
    (s.setPort p x).active = s.active := by cases p <;> rfl
@[simp] theorem State.setPort_script (s : State) (p : PortId) (x : PortState) :
    (s.setPort p x).script = s.script := by cases p <;> rfl
@[simp] theorem State.setPort_draws (s : State) (p : PortId) (x : PortState) :
    (s.setPort p x).draws = s.draws := by cases p <;> rfl
@[simp] theorem State.setPort_seeds (s : State) (p : PortId) (x : PortState) :
    (s.setPort p x).seeds = s.seeds := by cases p <;> rfl
@[simp] theorem State.setPort_port (s : State) (p q : PortId) (x : PortState) :
    (s.setPort p x).port q = if q = p then x else s.port q := by
  cases p <;> cases q <;> rfl
@[simp] theorem State.setPort_db (s : State) (p : PortId) (x : PortState) (i : Inst) :
    (s.setPort p x).db i = s.db i := by
  cases p <;> cases i <;> rfl
@[simp] theorem State.setPort_txTickEnabled (s : State) (p : PortId) (x : PortState) :
    (s.setPort p x).txTickEnabled = s.txTickEnabled := by
  cases p <;> rfl

/-! ## `respond` -/

@[simp] theorem State.respond_cfg (s : State) (st : Status) (v : Word) :
    (s.respond st v).cfg = s.cfg := by simp [State.respond]
@[simp] theorem State.respond_fmtDepth (s : State) (st : Status) (v : Word) :
    (s.respond st v).fmtDepth = s.fmtDepth := by simp [State.respond]
@[simp] theorem State.respond_fmtRate (s : State) (st : Status) (v : Word) :
    (s.respond st v).fmtRate = s.fmtRate := by simp [State.respond]
@[simp] theorem State.respond_tickPending (s : State) (st : Status) (v : Word) :
    (s.respond st v).tickPending = s.tickPending := by simp [State.respond]
@[simp] theorem State.respond_genQ (s : State) (st : Status) (v : Word) :
    (s.respond st v).genQ = s.genQ := by simp [State.respond]
@[simp] theorem State.respond_genState (s : State) (st : Status) (v : Word) :
    (s.respond st v).genState = s.genState := by simp [State.respond]
@[simp] theorem State.respond_genCur (s : State) (st : Status) (v : Word) :
    (s.respond st v).genCur = s.genCur := by simp [State.respond]
@[simp] theorem State.respond_pinOut (s : State) (st : Status) (v : Word) :
    (s.respond st v).pinOut = s.pinOut := by simp [State.respond]
@[simp] theorem State.respond_detQ (s : State) (st : Status) (v : Word) :
    (s.respond st v).detQ = s.detQ := by simp [State.respond]
@[simp] theorem State.respond_dbTx (s : State) (st : Status) (v : Word) :
    (s.respond st v).dbTx = s.dbTx := by simp [State.respond]
@[simp] theorem State.respond_dbRx (s : State) (st : Status) (v : Word) :
    (s.respond st v).dbRx = s.dbRx := by simp [State.respond]
@[simp] theorem State.respond_fifoFull (s : State) (st : Status) (v : Word) :
    (s.respond st v).fifoFull = s.fifoFull := by simp [State.respond]
@[simp] theorem State.respond_fifoWord (s : State) (st : Status) (v : Word) :
    (s.respond st v).fifoWord = s.fifoWord := by simp [State.respond]
@[simp] theorem State.respond_ring (s : State) (st : Status) (v : Word) :
    (s.respond st v).ring = s.ring := by simp [State.respond]
@[simp] theorem State.respond_pdm (s : State) (st : Status) (v : Word) :
    (s.respond st v).pdm = s.pdm := by simp [State.respond]
@[simp] theorem State.respond_counters (s : State) (st : Status) (v : Word) :
    (s.respond st v).counters = s.counters := by simp [State.respond]
@[simp] theorem State.respond_pulses (s : State) (st : Status) (v : Word) :
    (s.respond st v).pulses = s.pulses := by simp [State.respond]
@[simp] theorem State.respond_active (s : State) (st : Status) (v : Word) :
    (s.respond st v).active = s.active := by simp [State.respond]
@[simp] theorem State.respond_script (s : State) (st : Status) (v : Word) :
    (s.respond st v).script = s.script := by simp [State.respond]
@[simp] theorem State.respond_draws (s : State) (st : Status) (v : Word) :
    (s.respond st v).draws = s.draws := by simp [State.respond]
@[simp] theorem State.respond_seeds (s : State) (st : Status) (v : Word) :
    (s.respond st v).seeds = s.seeds := by simp [State.respond]
@[simp] theorem State.respond_port (s : State) (st : Status) (v : Word) (q : PortId) :
    (s.respond st v).port q =
      if q = s.active then
        { s.port s.active with cmd := none, responses := (s.port s.active).responses ++ [⟨st, v⟩] }
      else s.port q := by
  simp [State.respond]
@[simp] theorem State.respond_db (s : State) (st : Status) (v : Word) (i : Inst) :
    (s.respond st v).db i = s.db i := by simp [State.respond]
@[simp] theorem State.respond_txTickEnabled (s : State) (st : Status) (v : Word) :
    (s.respond st v).txTickEnabled = s.txTickEnabled := by
  simp [State.respond]

/-! ## `holdForward` -/

@[simp] theorem State.holdForward_cfg (s : State) (v : Word) :
    (s.holdForward v).cfg = s.cfg := by simp [State.holdForward]
@[simp] theorem State.holdForward_fmtDepth (s : State) (v : Word) :
    (s.holdForward v).fmtDepth = s.fmtDepth := by simp [State.holdForward]
@[simp] theorem State.holdForward_fmtRate (s : State) (v : Word) :
    (s.holdForward v).fmtRate = s.fmtRate := by simp [State.holdForward]
@[simp] theorem State.holdForward_tickPending (s : State) (v : Word) :
    (s.holdForward v).tickPending = s.tickPending := by simp [State.holdForward]
@[simp] theorem State.holdForward_genQ (s : State) (v : Word) :
    (s.holdForward v).genQ = s.genQ := by simp [State.holdForward]
@[simp] theorem State.holdForward_genState (s : State) (v : Word) :
    (s.holdForward v).genState = s.genState := by simp [State.holdForward]
@[simp] theorem State.holdForward_genCur (s : State) (v : Word) :
    (s.holdForward v).genCur = s.genCur := by simp [State.holdForward]
@[simp] theorem State.holdForward_pinOut (s : State) (v : Word) :
    (s.holdForward v).pinOut = s.pinOut := by simp [State.holdForward]
@[simp] theorem State.holdForward_detQ (s : State) (v : Word) :
    (s.holdForward v).detQ = s.detQ := by simp [State.holdForward]
@[simp] theorem State.holdForward_dbTx (s : State) (v : Word) :
    (s.holdForward v).dbTx = s.dbTx := by simp [State.holdForward]
@[simp] theorem State.holdForward_dbRx (s : State) (v : Word) :
    (s.holdForward v).dbRx = s.dbRx := by simp [State.holdForward]
@[simp] theorem State.holdForward_fifoFull (s : State) (v : Word) :
    (s.holdForward v).fifoFull = s.fifoFull := by simp [State.holdForward]
@[simp] theorem State.holdForward_fifoWord (s : State) (v : Word) :
    (s.holdForward v).fifoWord = s.fifoWord := by simp [State.holdForward]
@[simp] theorem State.holdForward_ring (s : State) (v : Word) :
    (s.holdForward v).ring = s.ring := by simp [State.holdForward]
@[simp] theorem State.holdForward_pdm (s : State) (v : Word) :
    (s.holdForward v).pdm = s.pdm := by simp [State.holdForward]
@[simp] theorem State.holdForward_counters (s : State) (v : Word) :
    (s.holdForward v).counters = s.counters := by simp [State.holdForward]
@[simp] theorem State.holdForward_pulses (s : State) (v : Word) :
    (s.holdForward v).pulses = s.pulses := by simp [State.holdForward]
@[simp] theorem State.holdForward_active (s : State) (v : Word) :
    (s.holdForward v).active = s.active := by simp [State.holdForward]
@[simp] theorem State.holdForward_script (s : State) (v : Word) :
    (s.holdForward v).script = s.script := by simp [State.holdForward]
@[simp] theorem State.holdForward_draws (s : State) (v : Word) :
    (s.holdForward v).draws = s.draws := by simp [State.holdForward]
@[simp] theorem State.holdForward_seeds (s : State) (v : Word) :
    (s.holdForward v).seeds = s.seeds := by simp [State.holdForward]
@[simp] theorem State.holdForward_port (s : State) (v : Word) (q : PortId) :
    (s.holdForward v).port q =
      if q = s.active then
        { s.port s.active with hold := .fwd v, cmd := none }
      else s.port q := by
  simp [State.holdForward]
@[simp] theorem State.holdForward_db (s : State) (v : Word) (i : Inst) :
    (s.holdForward v).db i = s.db i := by simp [State.holdForward]
@[simp] theorem State.holdForward_txTickEnabled (s : State) (v : Word) :
    (s.holdForward v).txTickEnabled = s.txTickEnabled := by
  simp [State.holdForward]

/-! ## `present` -/

@[simp] theorem State.present_cfg (s : State) (p : PortId) (t : Txn) :
    (s.present p t).cfg = s.cfg := by simp [State.present]
@[simp] theorem State.present_fmtDepth (s : State) (p : PortId) (t : Txn) :
    (s.present p t).fmtDepth = s.fmtDepth := by simp [State.present]
@[simp] theorem State.present_fmtRate (s : State) (p : PortId) (t : Txn) :
    (s.present p t).fmtRate = s.fmtRate := by simp [State.present]
@[simp] theorem State.present_tickPending (s : State) (p : PortId) (t : Txn) :
    (s.present p t).tickPending = s.tickPending := by simp [State.present]
@[simp] theorem State.present_genQ (s : State) (p : PortId) (t : Txn) :
    (s.present p t).genQ = s.genQ := by simp [State.present]
@[simp] theorem State.present_genState (s : State) (p : PortId) (t : Txn) :
    (s.present p t).genState = s.genState := by simp [State.present]
@[simp] theorem State.present_genCur (s : State) (p : PortId) (t : Txn) :
    (s.present p t).genCur = s.genCur := by simp [State.present]
@[simp] theorem State.present_pinOut (s : State) (p : PortId) (t : Txn) :
    (s.present p t).pinOut = s.pinOut := by simp [State.present]
@[simp] theorem State.present_detQ (s : State) (p : PortId) (t : Txn) :
    (s.present p t).detQ = s.detQ := by simp [State.present]
@[simp] theorem State.present_dbTx (s : State) (p : PortId) (t : Txn) :
    (s.present p t).dbTx = s.dbTx := by simp [State.present]
@[simp] theorem State.present_dbRx (s : State) (p : PortId) (t : Txn) :
    (s.present p t).dbRx = s.dbRx := by simp [State.present]
@[simp] theorem State.present_fifoFull (s : State) (p : PortId) (t : Txn) :
    (s.present p t).fifoFull = s.fifoFull := by simp [State.present]
@[simp] theorem State.present_fifoWord (s : State) (p : PortId) (t : Txn) :
    (s.present p t).fifoWord = s.fifoWord := by simp [State.present]
@[simp] theorem State.present_ring (s : State) (p : PortId) (t : Txn) :
    (s.present p t).ring = s.ring := by simp [State.present]
@[simp] theorem State.present_pdm (s : State) (p : PortId) (t : Txn) :
    (s.present p t).pdm = s.pdm := by simp [State.present]
@[simp] theorem State.present_counters (s : State) (p : PortId) (t : Txn) :
    (s.present p t).counters = s.counters := by simp [State.present]
@[simp] theorem State.present_pulses (s : State) (p : PortId) (t : Txn) :
    (s.present p t).pulses = s.pulses := by simp [State.present]
@[simp] theorem State.present_active (s : State) (p : PortId) (t : Txn) :
    (s.present p t).active = s.active := by simp [State.present]
@[simp] theorem State.present_script (s : State) (p : PortId) (t : Txn) :
    (s.present p t).script = s.script := by simp [State.present]
@[simp] theorem State.present_draws (s : State) (p : PortId) (t : Txn) :
    (s.present p t).draws = s.draws := by simp [State.present]
@[simp] theorem State.present_seeds (s : State) (p : PortId) (t : Txn) :
    (s.present p t).seeds = s.seeds := by simp [State.present]
@[simp] theorem State.present_port (s : State) (p : PortId) (t : Txn) (q : PortId) :
    (s.present p t).port q =
      if q = p then
        { s.port p with cmd := some t }
      else s.port q := by
  simp [State.present]
@[simp] theorem State.present_db (s : State) (p : PortId) (t : Txn) (i : Inst) :
    (s.present p t).db i = s.db i := by simp [State.present]
@[simp] theorem State.present_txTickEnabled (s : State) (p : PortId) (t : Txn) :
    (s.present p t).txTickEnabled = s.txTickEnabled := by
  simp [State.present]

/-! ## `count` -/

@[simp] theorem State.count_cfg (s : State) (c : CounterId) : (s.count c).cfg = s.cfg := rfl
@[simp] theorem State.count_fmtDepth (s : State) (c : CounterId) :
    (s.count c).fmtDepth = s.fmtDepth := rfl
@[simp] theorem State.count_fmtRate (s : State) (c : CounterId) :
    (s.count c).fmtRate = s.fmtRate := rfl
@[simp] theorem State.count_tickPending (s : State) (c : CounterId) :
    (s.count c).tickPending = s.tickPending := rfl
@[simp] theorem State.count_genQ (s : State) (c : CounterId) : (s.count c).genQ = s.genQ := rfl
@[simp] theorem State.count_genState (s : State) (c : CounterId) :
    (s.count c).genState = s.genState := rfl
@[simp] theorem State.count_genCur (s : State) (c : CounterId) :
    (s.count c).genCur = s.genCur := rfl
@[simp] theorem State.count_pinOut (s : State) (c : CounterId) :
    (s.count c).pinOut = s.pinOut := rfl
@[simp] theorem State.count_detQ (s : State) (c : CounterId) : (s.count c).detQ = s.detQ := rfl
@[simp] theorem State.count_dbTx (s : State) (c : CounterId) : (s.count c).dbTx = s.dbTx := rfl
@[simp] theorem State.count_dbRx (s : State) (c : CounterId) : (s.count c).dbRx = s.dbRx := rfl
@[simp] theorem State.count_fifoFull (s : State) (c : CounterId) :
    (s.count c).fifoFull = s.fifoFull := rfl
@[simp] theorem State.count_fifoWord (s : State) (c : CounterId) :
    (s.count c).fifoWord = s.fifoWord := rfl
@[simp] theorem State.count_ring (s : State) (c : CounterId) : (s.count c).ring = s.ring := rfl
@[simp] theorem State.count_pdm (s : State) (c : CounterId) : (s.count c).pdm = s.pdm := rfl
@[simp] theorem State.count_portA (s : State) (c : CounterId) : (s.count c).portA = s.portA := rfl
@[simp] theorem State.count_portB (s : State) (c : CounterId) : (s.count c).portB = s.portB := rfl
@[simp] theorem State.count_counters (s : State) (c : CounterId) :
    (s.count c).counters = s.counters.bump c := rfl
@[simp] theorem State.count_pulses (s : State) (c : CounterId) :
    (s.count c).pulses = s.pulses := rfl
@[simp] theorem State.count_active (s : State) (c : CounterId) :
    (s.count c).active = s.active := rfl
@[simp] theorem State.count_script (s : State) (c : CounterId) :
    (s.count c).script = s.script := rfl
@[simp] theorem State.count_draws (s : State) (c : CounterId) : (s.count c).draws = s.draws := rfl
@[simp] theorem State.count_seeds (s : State) (c : CounterId) : (s.count c).seeds = s.seeds := rfl
@[simp] theorem State.count_port (s : State) (c : CounterId) (p : PortId) :
    (s.count c).port p = s.port p := by
  cases p <;> rfl
@[simp] theorem State.count_db (s : State) (c : CounterId) (i : Inst) :
    (s.count c).db i = s.db i := by
  cases i <;> rfl
@[simp] theorem State.count_genSpace (s : State) (c : CounterId) :
    (s.count c).genSpace = s.genSpace := rfl
@[simp] theorem State.count_txTickEnabled (s : State) (c : CounterId) :
    (s.count c).txTickEnabled = s.txTickEnabled := rfl

/-! ## `setDb` -/

@[simp] theorem State.setDb_cfg (s : State) (i : Inst) (d : DBuf) :
    (s.setDb i d).cfg = s.cfg := by cases i <;> rfl
@[simp] theorem State.setDb_fmtDepth (s : State) (i : Inst) (d : DBuf) :
    (s.setDb i d).fmtDepth = s.fmtDepth := by cases i <;> rfl
@[simp] theorem State.setDb_fmtRate (s : State) (i : Inst) (d : DBuf) :
    (s.setDb i d).fmtRate = s.fmtRate := by cases i <;> rfl
@[simp] theorem State.setDb_tickPending (s : State) (i : Inst) (d : DBuf) :
    (s.setDb i d).tickPending = s.tickPending := by cases i <;> rfl
@[simp] theorem State.setDb_genQ (s : State) (i : Inst) (d : DBuf) :
    (s.setDb i d).genQ = s.genQ := by cases i <;> rfl
@[simp] theorem State.setDb_genState (s : State) (i : Inst) (d : DBuf) :
    (s.setDb i d).genState = s.genState := by cases i <;> rfl
@[simp] theorem State.setDb_genCur (s : State) (i : Inst) (d : DBuf) :
    (s.setDb i d).genCur = s.genCur := by cases i <;> rfl
@[simp] theorem State.setDb_pinOut (s : State) (i : Inst) (d : DBuf) :
    (s.setDb i d).pinOut = s.pinOut := by cases i <;> rfl
@[simp] theorem State.setDb_detQ (s : State) (i : Inst) (d : DBuf) :
    (s.setDb i d).detQ = s.detQ := by cases i <;> rfl
@[simp] theorem State.setDb_fifoFull (s : State) (i : Inst) (d : DBuf) :
    (s.setDb i d).fifoFull = s.fifoFull := by cases i <;> rfl
@[simp] theorem State.setDb_fifoWord (s : State) (i : Inst) (d : DBuf) :
    (s.setDb i d).fifoWord = s.fifoWord := by cases i <;> rfl
@[simp] theorem State.setDb_ring (s : State) (i : Inst) (d : DBuf) :
    (s.setDb i d).ring = s.ring := by cases i <;> rfl
@[simp] theorem State.setDb_pdm (s : State) (i : Inst) (d : DBuf) :
    (s.setDb i d).pdm = s.pdm := by cases i <;> rfl
@[simp] theorem State.setDb_portA (s : State) (i : Inst) (d : DBuf) :
    (s.setDb i d).portA = s.portA := by cases i <;> rfl
@[simp] theorem State.setDb_portB (s : State) (i : Inst) (d : DBuf) :
    (s.setDb i d).portB = s.portB := by cases i <;> rfl
@[simp] theorem State.setDb_counters (s : State) (i : Inst) (d : DBuf) :
    (s.setDb i d).counters = s.counters := by cases i <;> rfl
@[simp] theorem State.setDb_pulses (s : State) (i : Inst) (d : DBuf) :
    (s.setDb i d).pulses = s.pulses := by cases i <;> rfl
@[simp] theorem State.setDb_active (s : State) (i : Inst) (d : DBuf) :
    (s.setDb i d).active = s.active := by cases i <;> rfl
@[simp] theorem State.setDb_script (s : State) (i : Inst) (d : DBuf) :
    (s.setDb i d).script = s.script := by cases i <;> rfl
@[simp] theorem State.setDb_draws (s : State) (i : Inst) (d : DBuf) :
    (s.setDb i d).draws = s.draws := by cases i <;> rfl
@[simp] theorem State.setDb_seeds (s : State) (i : Inst) (d : DBuf) :
    (s.setDb i d).seeds = s.seeds := by cases i <;> rfl
@[simp] theorem State.setDb_db (s : State) (i j : Inst) (d : DBuf) :
    (s.setDb i d).db j = if j = i then d else s.db j := by
  cases i <;> cases j <;> rfl
@[simp] theorem State.setDb_port (s : State) (i : Inst) (d : DBuf) (p : PortId) :
    (s.setDb i d).port p = s.port p := by
  cases i <;> cases p <;> rfl

/-! ## `genEnqueue` -/

@[simp] theorem State.genEnqueue_cfg (s : State) (w : Word) : (s.genEnqueue w).cfg = s.cfg := rfl
@[simp] theorem State.genEnqueue_fmtDepth (s : State) (w : Word) :
    (s.genEnqueue w).fmtDepth = s.fmtDepth := rfl
@[simp] theorem State.genEnqueue_fmtRate (s : State) (w : Word) :
    (s.genEnqueue w).fmtRate = s.fmtRate := rfl
@[simp] theorem State.genEnqueue_tickPending (s : State) (w : Word) :
    (s.genEnqueue w).tickPending = s.tickPending := rfl
@[simp] theorem State.genEnqueue_genQ (s : State) (w : Word) :
    (s.genEnqueue w).genQ = s.genQ ++ [w] := rfl
@[simp] theorem State.genEnqueue_genState (s : State) (w : Word) :
    (s.genEnqueue w).genState = s.genState := rfl
@[simp] theorem State.genEnqueue_genCur (s : State) (w : Word) :
    (s.genEnqueue w).genCur = s.genCur := rfl
@[simp] theorem State.genEnqueue_pinOut (s : State) (w : Word) :
    (s.genEnqueue w).pinOut = s.pinOut := rfl
@[simp] theorem State.genEnqueue_detQ (s : State) (w : Word) : (s.genEnqueue w).detQ = s.detQ := rfl
@[simp] theorem State.genEnqueue_dbTx (s : State) (w : Word) : (s.genEnqueue w).dbTx = s.dbTx := rfl
@[simp] theorem State.genEnqueue_dbRx (s : State) (w : Word) : (s.genEnqueue w).dbRx = s.dbRx := rfl
@[simp] theorem State.genEnqueue_fifoFull (s : State) (w : Word) :
    (s.genEnqueue w).fifoFull = s.fifoFull := rfl
@[simp] theorem State.genEnqueue_fifoWord (s : State) (w : Word) :
    (s.genEnqueue w).fifoWord = s.fifoWord := rfl
@[simp] theorem State.genEnqueue_ring (s : State) (w : Word) : (s.genEnqueue w).ring = s.ring := rfl
@[simp] theorem State.genEnqueue_pdm (s : State) (w : Word) : (s.genEnqueue w).pdm = s.pdm := rfl
@[simp] theorem State.genEnqueue_portA (s : State) (w : Word) :
    (s.genEnqueue w).portA = s.portA := rfl
@[simp] theorem State.genEnqueue_portB (s : State) (w : Word) :
    (s.genEnqueue w).portB = s.portB := rfl
@[simp] theorem State.genEnqueue_counters (s : State) (w : Word) :
    (s.genEnqueue w).counters = s.counters := rfl
@[simp] theorem State.genEnqueue_pulses (s : State) (w : Word) :
    (s.genEnqueue w).pulses = s.pulses := rfl
@[simp] theorem State.genEnqueue_active (s : State) (w : Word) :
    (s.genEnqueue w).active = s.active := rfl
@[simp] theorem State.genEnqueue_script (s : State) (w : Word) :
    (s.genEnqueue w).script = s.script := rfl
@[simp] theorem State.genEnqueue_draws (s : State) (w : Word) :
    (s.genEnqueue w).draws = s.draws := rfl
@[simp] theorem State.genEnqueue_seeds (s : State) (w : Word) :
    (s.genEnqueue w).seeds = s.seeds := rfl
@[simp] theorem State.genEnqueue_port (s : State) (w : Word) (p : PortId) :
    (s.genEnqueue w).port p = s.port p := by
  cases p <;> rfl
@[simp] theorem State.genEnqueue_db (s : State) (w : Word) (i : Inst) :
    (s.genEnqueue w).db i = s.db i := by
  cases i <;> rfl

/-! ## Buffers and arrays by their index -/

@[simp] theorem DBuf.buf_false (d : DBuf) : d.buf false = d.buf0 := rfl
@[simp] theorem DBuf.buf_true (d : DBuf) : d.buf true = d.buf1 := rfl
@[simp] theorem DBuf.setBuf_buf (d : DBuf) (b c : Half) (x : Buf) :
    (d.setBuf b x).buf c = if c = b then x else d.buf c := by
  cases b <;> cases c <;> rfl
@[simp] theorem DBuf.setBuf_w (d : DBuf) (b : Half) (x : Buf) :
    (d.setBuf b x).w = d.w := by cases b <;> rfl
@[simp] theorem DBuf.setBuf_r (d : DBuf) (b : Half) (x : Buf) :
    (d.setBuf b x).r = d.r := by cases b <;> rfl
@[simp] theorem DBuf.setBuf_isOpen (d : DBuf) (b : Half) (x : Buf) :
    (d.setBuf b x).isOpen = d.isOpen := by cases b <;> rfl
@[simp] theorem Ring.array_false (r : Ring) : r.array false = r.array0 := rfl
@[simp] theorem Ring.array_true (r : Ring) : r.array true = r.array1 := rfl
@[simp] theorem Ring.rsize_false (r : Ring) : r.rsize false = r.rsize0 := rfl
@[simp] theorem Ring.rsize_true (r : Ring) : r.rsize true = r.rsize1 := rfl
@[simp] theorem Ring.setArray_array (r : Ring) (k j : Half) (m : Memory) :
    (r.setArray k m).array j = if j = k then m else r.array j := by
  cases k <;> cases j <;> rfl
@[simp] theorem Ring.setArray_rsize (r : Ring) (k j : Half) (m : Memory) :
    (r.setArray k m).rsize j = r.rsize j := by
  cases k <;> cases j <;> rfl
@[simp] theorem Ring.setRsize_array (r : Ring) (k j : Half) (n : Nat) :
    (r.setRsize k n).array j = r.array j := by
  cases k <;> cases j <;> rfl
@[simp] theorem Ring.setRsize_rsize (r : Ring) (k j : Half) (n : Nat) :
    (r.setRsize k n).rsize j = if j = k then n else r.rsize j := by
  cases k <;> cases j <;> rfl
@[simp] theorem Ring.setArray_semEmpty (r : Ring) (k : Half) (m : Memory) :
    (r.setArray k m).semEmpty = r.semEmpty := by cases k <;> rfl
@[simp] theorem Ring.setRsize_semEmpty (r : Ring) (k : Half) (n : Nat) :
    (r.setRsize k n).semEmpty = r.semEmpty := by cases k <;> rfl
@[simp] theorem Ring.setArray_semFull (r : Ring) (k : Half) (m : Memory) :
    (r.setArray k m).semFull = r.semFull := by cases k <;> rfl
@[simp] theorem Ring.setRsize_semFull (r : Ring) (k : Half) (n : Nat) :
    (r.setRsize k n).semFull = r.semFull := by cases k <;> rfl
@[simp] theorem Ring.setArray_wi (r : Ring) (k : Half) (m : Memory) :
    (r.setArray k m).wi = r.wi := by cases k <;> rfl
@[simp] theorem Ring.setRsize_wi (r : Ring) (k : Half) (n : Nat) :
    (r.setRsize k n).wi = r.wi := by cases k <;> rfl
@[simp] theorem Ring.setArray_ri (r : Ring) (k : Half) (m : Memory) :
    (r.setArray k m).ri = r.ri := by cases k <;> rfl
@[simp] theorem Ring.setRsize_ri (r : Ring) (k : Half) (n : Nat) :
    (r.setRsize k n).ri = r.ri := by cases k <;> rfl
@[simp] theorem Ring.setArray_wheld (r : Ring) (k : Half) (m : Memory) :
    (r.setArray k m).wheld = r.wheld := by cases k <;> rfl
@[simp] theorem Ring.setRsize_wheld (r : Ring) (k : Half) (n : Nat) :
    (r.setRsize k n).wheld = r.wheld := by cases k <;> rfl
@[simp] theorem Ring.setArray_wcount (r : Ring) (k : Half) (m : Memory) :
    (r.setArray k m).wcount = r.wcount := by cases k <;> rfl
@[simp] theorem Ring.setRsize_wcount (r : Ring) (k : Half) (n : Nat) :
    (r.setRsize k n).wcount = r.wcount := by cases k <;> rfl
@[simp] theorem Ring.setArray_rheld (r : Ring) (k : Half) (m : Memory) :
    (r.setArray k m).rheld = r.rheld := by cases k <;> rfl
@[simp] theorem Ring.setRsize_rheld (r : Ring) (k : Half) (n : Nat) :
    (r.setRsize k n).rheld = r.rheld := by cases k <;> rfl
@[simp] theorem Ring.setArray_rpos (r : Ring) (k : Half) (m : Memory) :
    (r.setArray k m).rpos = r.rpos := by cases k <;> rfl
@[simp] theorem Ring.setRsize_rpos (r : Ring) (k : Half) (n : Nat) :
    (r.setRsize k n).rpos = r.rpos := by cases k <;> rfl

/-! ## Counters -/

@[simp] theorem Counters.bump_get (k : Counters) (c d : CounterId) :
    (k.bump c).get d = if c = d then k.get d + 1 else k.get d := by
  cases c <;> cases d <;> rfl
@[simp] theorem Counters.zero_get (c : CounterId) : Counters.zero.get c = 0 := by cases c <;> rfl

end Sys2Proof.Machine
end

