-- ==== Sys2Proof/Laws/Ops.lean ====
section
/-! SUPPORT. One lemma for each shared operation, which says once everything the operation can do;
later proofs cite these and unfold none of them. -/

namespace Sys2Proof.Machine

/-! ## Outcomes -/

@[simp] theorem orFault_ok {α : Type} (v : α) (f : α → Result) : orFault (.ok v) f = f v := rfl

@[simp] theorem orFault_error {α : Type} (e : Fault) (f : α → Result) :
    orFault (.error e) f = .fault e := rfl

/-- A primitive that stops stops the whole; one that answers continues. -/
theorem orFault_eq_next {α : Type} {x : Except Fault α} {f : α → Result} {t : State} :
    orFault x f = .next t ↔ ∃ v, x = .ok v ∧ f v = .next t := by
  cases x <;> simp

/-! ## Operands -/

theorem sampleOk_iff (d : Depth) (x : Word) :
    sampleOk d x = true ↔ d.min ≤ x.toInt ∧ x.toInt ≤ d.max := by
  simp [sampleOk]

theorem sampleOk_eq_false_iff (d : Depth) (x : Word) :
    sampleOk d x = false ↔ x.toInt < d.min ∨ d.max < x.toInt := by
  rw [← Bool.not_eq_true, sampleOk_iff]
  omega

theorem accept_iff (c : Config) (m : Word) :
    accept c m = true ↔ 0 < corr c m ∧ corr c m ≤ 1024 := by
  simp [accept, maxCode]

theorem accept_eq_false_iff (c : Config) (m : Word) :
    accept c m = false ↔ corr c m ≤ 0 ∨ 1024 < corr c m := by
  rw [← Bool.not_eq_true, accept_iff]
  omega

theorem Depth.max_cases (d : Depth) : d.max = 32767 ∨ d.max = 8388607 := by
  cases d <;> decide

theorem Depth.min_eq (d : Depth) : d.min = -d.max - 1 := by
  cases d <;> decide

/-! ## Double buffers -/

@[simp] theorem DBuf.release_r (d : DBuf) : d.release.r = !d.r := rfl

@[simp] theorem DBuf.release_w (d : DBuf) : d.release.w = d.w := by
  simp [DBuf.release]

@[simp] theorem DBuf.release_isOpen (d : DBuf) : d.release.isOpen = d.isOpen := by
  simp [DBuf.release]

/-- `release(I)` empties buffer R, keeps its payload, and leaves the other buffer alone (R183). -/
theorem DBuf.release_buf (d : DBuf) (b : Half) :
    d.release.buf b = if b = d.r then ⟨(d.buf d.r).payload, 0, 0, false⟩ else d.buf b := by
  cases b <;> cases h : d.r <;> simp [DBuf.release, DBuf.setBuf, DBuf.buf, h]

/-- `dbreset(I)` empties both buffers and keeps their payloads (R188). -/
theorem DBuf.reset_buf (d : DBuf) (b : Half) :
    d.reset.buf b = ⟨(d.buf b).payload, 0, 0, false⟩ := by
  cases b <;> rfl

/-- All that taking an element can do (R162, R184): the word at the cursor, with the buffer released
after its last. -/
theorem DBuf.take_eq (cap : Nat) (d : DBuf) :
    d.take cap =
      if (d.buf d.r).pos < cap then
        .ok ((d.buf d.r).payload.get (d.buf d.r).pos,
          if (d.buf d.r).pos + 1 = (d.buf d.r).size then d.release
          else d.setBuf d.r { d.buf d.r with pos := (d.buf d.r).pos + 1 })
      else .error .arrayBounds := by
  by_cases hc : (d.buf d.r).pos < cap
  · by_cases h : (d.buf d.r).pos + 1 = (d.buf d.r).size
    · simp only [DBuf.take, memRead_eq, hc, h, if_true]
      cases hr : d.r <;> simp [DBuf.release, DBuf.setBuf, DBuf.buf, hr]
    · simp [DBuf.take, memRead_eq, hc, h]
  · simp [DBuf.take, memRead_eq, hc]

/-! ## The ring -/

/-- The writer's view once it holds an array (R204). -/
def Ring.writing (r : Ring) : Ring :=
  if r.wheld then r else { r with semEmpty := r.semEmpty - 1, wheld := true, wcount := 0 }

/-- The reader's view once it holds an array (R208). -/
def Ring.reading (r : Ring) : Ring :=
  if r.rheld then r else { r with semFull := r.semFull - 1, rheld := true, rpos := 0 }

theorem Ring.acquireEmpty_eq (r : Ring) :
    r.acquireEmpty = if r.wheld = false ∧ r.semEmpty = 0 then none else some r.writing := by
  cases h : r.wheld <;> by_cases h0 : r.semEmpty = 0 <;>
    simp [Ring.acquireEmpty, Ring.writing, tryAcquire, h, h0]

theorem Ring.acquireFull_eq (r : Ring) :
    r.acquireFull = if r.rheld = false ∧ r.semFull = 0 then none else some r.reading := by
  cases h : r.rheld <;> by_cases h0 : r.semFull = 0 <;>
    simp [Ring.acquireFull, Ring.reading, tryAcquire, h, h0]

/-- The ring with one word written into the held array, and a full batch published (R204). -/
def Ring.appended (batch : Nat) (v : Word) (r : Ring) : Ring :=
  let r' := { r.setArray r.wi ((r.array r.wi).insert r.wcount v) with wcount := r.wcount + 1 }
  if r.wcount + 1 = batch then r'.publish else r'

theorem Ring.appendHeld_eq (cap batch : Nat) (v : Word) (r : Ring) :
    r.appendHeld cap batch v =
      if r.wcount < cap then .ok (r.appended batch v) else .error .arrayBounds := by
  unfold Ring.appendHeld
  rw [memWrite_eq]
  split <;> rename_i h <;> split at h <;> simp_all [Ring.appended]

/-- All that `ring_append(v)` can do: drop, append, or stop outside the array. -/
theorem State.ringAppend_eq (s : State) (v : Word) :
    s.ringAppend v =
      if s.ring.wheld = false ∧ s.ring.semEmpty = 0 then .ok (false, s.count .ringDrop)
      else if s.ring.writing.wcount < s.cfg.ringCap then
        .ok (true, { s with ring := s.ring.writing.appended s.cfg.ringBatch v })
      else .error .arrayBounds := by
  unfold State.ringAppend
  rw [Ring.acquireEmpty_eq]
  split
  · simp_all
  · rename_i r h
    split at h
    · simp at h
    · rename_i hn
      simp only [Option.some.injEq] at h
      subst h
      rw [if_neg hn, Ring.appendHeld_eq]
      split <;> rename_i h <;> split at h <;> simp_all

/-- All that taking a word from the held array can do (R208): the word at the cursor, with the array
released after its last. -/
theorem Ring.takeHeld_eq (cap : Nat) (r : Ring) :
    r.takeHeld cap =
      if r.rpos < cap then
        .ok ((r.array r.ri).get r.rpos,
          if r.rpos + 1 = r.rsize r.ri then r.release else { r with rpos := r.rpos + 1 })
      else .error .arrayBounds := by
  by_cases hc : r.rpos < cap
  · by_cases h : r.rpos + 1 = r.rsize r.ri
    · simp only [Ring.takeHeld, memRead_eq, hc, h, if_true]
      cases hr : r.ri <;> simp [Ring.release, Ring.setRsize, hr]
    · simp [Ring.takeHeld, memRead_eq, hc, h]
  · simp [Ring.takeHeld, memRead_eq, hc]

/-! ## The tick -/

theorem State.txTickEnabled_iff (s : State) :
    s.txTickEnabled = true ↔ s.tickPending = true ∧ s.genQ.length < s.cfg.genQDepth := by
  simp [State.txTickEnabled, State.genSpace]

/-- All that the taking of a tick can do (R162): the next code of the ready buffer goes out, with the
buffer released after its last; or silence goes out, with an exhausted buffer released. -/
theorem takeTick_cases (s : State) :
    (∃ c d, (s.dbTx.buf s.dbTx.r).ready = true ∧
        (s.dbTx.buf s.dbTx.r).pos < (s.dbTx.buf s.dbTx.r).size ∧
        s.dbTx.take s.cfg.dbCap = .ok (c, d) ∧
        takeTick s = .next
          ((({ s with tickPending := false, dbTx := d }).genEnqueue (widthSent s.cfg c)).count
            .txCode)) ∨
    (∃ e, (s.dbTx.buf s.dbTx.r).ready = true ∧
        (s.dbTx.buf s.dbTx.r).pos < (s.dbTx.buf s.dbTx.r).size ∧
        s.dbTx.take s.cfg.dbCap = .error e ∧ takeTick s = .fault e) ∨
    ((s.dbTx.buf s.dbTx.r).ready = true ∧
        (s.dbTx.buf s.dbTx.r).size ≤ (s.dbTx.buf s.dbTx.r).pos ∧
        takeTick s = .next
          ((({ s with tickPending := false, dbTx := s.dbTx.release }).genEnqueue
            (silenceWidth s.cfg)).count .txSilence)) ∨
    ((s.dbTx.buf s.dbTx.r).ready = false ∧
        takeTick s = .next
          ((({ s with tickPending := false }).genEnqueue (silenceWidth s.cfg)).count
            .txSilence)) := by
  cases hr : (s.dbTx.buf s.dbTx.r).ready
  · exact .inr (.inr (.inr ⟨rfl, by simp [takeTick, hr]⟩))
  · by_cases hp : (s.dbTx.buf s.dbTx.r).pos < (s.dbTx.buf s.dbTx.r).size
    · cases ht : s.dbTx.take s.cfg.dbCap with
      | ok x =>
        exact .inl ⟨x.1, x.2, rfl, hp, rfl, by simp [takeTick, hr, hp, ht]⟩
      | error e => exact .inr (.inl ⟨e, rfl, hp, rfl, by simp [takeTick, hr, hp, ht]⟩)
    · exact .inr (.inr (.inl ⟨rfl, by omega, by simp [takeTick, hr, hp]⟩))

/-! ## The ports -/

/-- All that the forwarding of an accepted value can do (R166). -/
theorem State.forward_cases (s : State) (c : Word) :
    (s.cfg.channelMode = .fifo ∧ s.fifoFull = true ∧ s.forward c = .next (s.holdForward c)) ∨
    (s.cfg.channelMode = .fifo ∧ s.fifoFull = false ∧
      s.forward c = .next ({ s with fifoFull := true, fifoWord := c }.respond .ok c)) ∨
    (s.cfg.channelMode = .ring ∧ s.ring.wheld = false ∧ s.ring.semEmpty = 0 ∧
      s.forward c = .next ((s.count .ringDrop).respond .busy c)) ∨
    (s.cfg.channelMode = .ring ∧ (s.ring.wheld = true ∨ s.ring.semEmpty ≠ 0) ∧
      s.ring.writing.wcount < s.cfg.ringCap ∧
      s.forward c = .next
        ({ s with ring := s.ring.writing.appended s.cfg.ringBatch c }.respond .ok c)) ∨
    (s.cfg.channelMode = .ring ∧ (s.ring.wheld = true ∨ s.ring.semEmpty ≠ 0) ∧
      s.cfg.ringCap ≤ s.ring.writing.wcount ∧ s.forward c = .fault .arrayBounds) := by
  unfold State.forward
  cases hm : s.cfg.channelMode
  · cases hf : s.fifoFull <;> simp
  · simp only [reduceCtorEq, false_and, false_or, true_and]
    rw [State.ringAppend_eq]
    by_cases h : s.ring.wheld = false ∧ s.ring.semEmpty = 0
    · rw [if_pos h]
      exact .inl ⟨h.1, h.2, rfl⟩
    · rw [if_neg h]
      have h' : s.ring.wheld = true ∨ s.ring.semEmpty ≠ 0 := by
        cases hw : s.ring.wheld <;> simp_all
      by_cases hc : s.ring.writing.wcount < s.cfg.ringCap
      · rw [if_pos hc]
        exact .inr (.inl ⟨h', hc, rfl⟩)
      · rw [if_neg hc]
        exact .inr (.inr ⟨h', by omega, rfl⟩)

/-- All that the step of a port can do (R254 to R256). -/
theorem portStep_cases (p : PortId) (s : State) :
    (s.txTickEnabled = true ∧ portStep p s = .next s) ∨
    (∃ v, s.txTickEnabled = false ∧ (s.port p).hold = .fwd v ∧
      portStep p s = .next (s.forwardDone p v)) ∨
    (∃ t i, s.txTickEnabled = false ∧ (s.port p).hold = .none ∧ (s.port p).cmd = some t ∧
      decode t = .ok i ∧ portStep p s = exec i { s with active := p }) ∨
    (∃ t r, s.txTickEnabled = false ∧ (s.port p).hold = .none ∧ (s.port p).cmd = some t ∧
      decode t = .error r ∧
      portStep p s = .next ({ s with active := p }.respond .illegal 0)) ∨
    (s.txTickEnabled = false ∧ (s.port p).hold = .none ∧ (s.port p).cmd = none ∧
      portStep p s = .next s) := by
  unfold portStep
  cases ht : s.txTickEnabled
  · cases hh : (s.port p).hold with
    | fwd v => exact .inr (.inl ⟨v, rfl, rfl, by simp⟩)
    | none =>
      cases hc : (s.port p).cmd with
      | none => exact .inr (.inr (.inr (.inr ⟨rfl, rfl, rfl, by simp⟩)))
      | some t =>
        cases hd : decode t with
        | ok i => exact .inr (.inr (.inl ⟨t, i, rfl, rfl, rfl, hd, by simp [runTxn, hd]⟩))
        | error r =>
          exact .inr (.inr (.inr (.inl ⟨t, r, rfl, rfl, rfl, hd, by simp [runTxn, hd]⟩)))
  · exact .inl ⟨rfl, by simp⟩

@[simp] theorem State.portFree_iff (s : State) (p : PortId) :
    s.portFree p = true ↔ (s.port p).hold = .none ∧ (s.port p).cmd = none := by
  simp [State.portFree]

/-- A step is the next event of the script, or a free event where the script is empty, run in the
state that has used it up. -/
theorem takeStep_cases (s : State) :
    (∃ e rest, s.script = e :: rest ∧ takeStep s = runEvent e { s with script := rest }) ∨
    (s.script = [] ∧
      takeStep s = runEvent (Config.freeEvent s.draws) { s with draws := s.draws + 1 }) := by
  cases h : s.script with
  | nil => exact .inr ⟨rfl, by simp [takeStep, nextEvent, h]⟩
  | cons e rest => exact .inl ⟨e, rest, rfl, by simp [takeStep, nextEvent, h]⟩

end Sys2Proof.Machine
end

