-- ==== Sys2Proof/Laws/PerInstr.lean ====
section
/-! SUPPORT. What holds of every command as syntax, one lemma for each constructor. -/

namespace Sys2Proof.Laws

-- One theorem at a time: elaborated all at once, they start more threads than a small machine has.
set_option Elab.async false

/-- The command word of `i` selects the row of R95 at the place of its constructor, and that row's
builder gives `i` back from the transaction of `i`. -/
def OpcodeRow.Statement (i : Instr) : Prop :=
  ∃ r ∈ rows, r.selects (encode i).cmd = true ∧ r.build (encode i) = i

/-- SEL of a class-C word is its low byte (R92). -/
theorem sel_append (op sel : BitVec 8) : (op ++ sel).extractLsb' 0 8 = sel :=
  BitVec.extractLsb'_append_eq_right

/-- A class-C mask keeps the OP byte and drops SEL (R92). -/
theorem append_and_op_mask (op sel : BitVec 8) : (op ++ sel) &&& 0xFF00#16 = op ++ 0#8 := by
  have h : 0xFF00#16 = BitVec.allOnes 8 ++ 0x00#8 := by decide
  rw [h, BitVec.and_append, BitVec.and_allOnes]
  simp

theorem OpcodeRow.nop : OpcodeRow.Statement .nop :=
  ⟨⟨"NOP", .z, 0x00, 0, fun _ => .nop⟩, List.mem_of_getElem? (i := 0) rfl,
    by simp only [Row.selects, Row.mask, Row.matchBits, encode]; decide, rfl⟩

theorem OpcodeRow.csrRead (csr : BitVec 8) : OpcodeRow.Statement (.csrRead csr) :=
  ⟨⟨"CSR_READ", .c, 0x01, 0, fun t => .csrRead t.sel⟩, List.mem_of_getElem? (i := 1) rfl,
    by simp only [Row.selects, encode, beq_iff_eq]; exact append_and_op_mask 0x01 csr,
    congrArg Instr.csrRead (sel_append 0x01 csr)⟩

theorem OpcodeRow.setFormat (rate depth : Word) :
    OpcodeRow.Statement (.setFormat rate depth) :=
  ⟨⟨"SET_FORMAT", .z, 0x02, 2, fun t => .setFormat t.a t.b⟩, List.mem_of_getElem? (i := 2) rfl,
    by simp only [Row.selects, Row.mask, Row.matchBits, encode]; decide, rfl⟩

theorem OpcodeRow.statsClear : OpcodeRow.Statement .statsClear :=
  ⟨⟨"STATS_CLEAR", .z, 0x03, 0, fun _ => .statsClear⟩, List.mem_of_getElem? (i := 3) rfl,
    by simp only [Row.selects, Row.mask, Row.matchBits, encode]; decide, rfl⟩

theorem OpcodeRow.ppmEncode (sample : Word) : OpcodeRow.Statement (.ppmEncode sample) :=
  ⟨⟨"PPM_ENCODE", .z, 0x10, 1, fun t => .ppmEncode t.a⟩, List.mem_of_getElem? (i := 4) rfl,
    by simp only [Row.selects, Row.mask, Row.matchBits, encode]; decide, rfl⟩

theorem OpcodeRow.ppmDecode (code : Word) : OpcodeRow.Statement (.ppmDecode code) :=
  ⟨⟨"PPM_DECODE", .z, 0x11, 1, fun t => .ppmDecode t.a⟩, List.mem_of_getElem? (i := 5) rfl,
    by simp only [Row.selects, Row.mask, Row.matchBits, encode]; decide, rfl⟩

theorem OpcodeRow.downmix (left right : Word) :
    OpcodeRow.Statement (.downmix left right) :=
  ⟨⟨"DOWNMIX", .z, 0x12, 2, fun t => .downmix t.a t.b⟩, List.mem_of_getElem? (i := 6) rfl,
    by simp only [Row.selects, Row.mask, Row.matchBits, encode]; decide, rfl⟩

theorem OpcodeRow.pdmStep (sample : Word) : OpcodeRow.Statement (.pdmStep sample) :=
  ⟨⟨"PDM_STEP", .z, 0x13, 1, fun t => .pdmStep t.a⟩, List.mem_of_getElem? (i := 7) rfl,
    by simp only [Row.selects, Row.mask, Row.matchBits, encode]; decide, rfl⟩

theorem OpcodeRow.genPush (width : Word) : OpcodeRow.Statement (.genPush width) :=
  ⟨⟨"GEN_PUSH", .z, 0x20, 1, fun t => .genPush t.a⟩, List.mem_of_getElem? (i := 8) rfl,
    by simp only [Row.selects, Row.mask, Row.matchBits, encode]; decide, rfl⟩

theorem OpcodeRow.detPop : OpcodeRow.Statement .detPop :=
  ⟨⟨"DET_POP", .z, 0x21, 0, fun _ => .detPop⟩, List.mem_of_getElem? (i := 9) rfl,
    by simp only [Row.selects, Row.mask, Row.matchBits, encode]; decide, rfl⟩

theorem OpcodeRow.rxCorrect (measured : Word) : OpcodeRow.Statement (.rxCorrect measured) :=
  ⟨⟨"RX_CORRECT", .z, 0x28, 1, fun t => .rxCorrect t.a⟩, List.mem_of_getElem? (i := 10) rfl,
    by simp only [Row.selects, Row.mask, Row.matchBits, encode]; decide, rfl⟩

theorem OpcodeRow.rxPoll : OpcodeRow.Statement .rxPoll :=
  ⟨⟨"RX_POLL", .z, 0x29, 0, fun _ => .rxPoll⟩, List.mem_of_getElem? (i := 11) rfl,
    by simp only [Row.selects, Row.mask, Row.matchBits, encode]; decide, rfl⟩

theorem OpcodeRow.dbBegin (inst : Inst) : OpcodeRow.Statement (.dbBegin inst) :=
  ⟨⟨"DB_BEGIN", .i, 0x30, 0, fun t => .dbBegin t.inst⟩, List.mem_of_getElem? (i := 12) rfl,
    by cases inst <;>
      (simp only [Row.selects, Row.mask, Row.matchBits, encode, Inst.sel]; decide),
    by cases inst <;> simp [encode, Inst.sel, Txn.inst]⟩

theorem OpcodeRow.dbPut (inst : Inst) (element : Word) :
    OpcodeRow.Statement (.dbPut inst element) :=
  ⟨⟨"DB_PUT", .i, 0x31, 1, fun t => .dbPut t.inst t.a⟩, List.mem_of_getElem? (i := 13) rfl,
    by cases inst <;>
      (simp only [Row.selects, Row.mask, Row.matchBits, encode, Inst.sel]; decide),
    by cases inst <;> simp [encode, Inst.sel, Txn.inst]⟩

theorem OpcodeRow.dbCommit (inst : Inst) : OpcodeRow.Statement (.dbCommit inst) :=
  ⟨⟨"DB_COMMIT", .i, 0x32, 0, fun t => .dbCommit t.inst⟩, List.mem_of_getElem? (i := 14) rfl,
    by cases inst <;>
      (simp only [Row.selects, Row.mask, Row.matchBits, encode, Inst.sel]; decide),
    by cases inst <;> simp [encode, Inst.sel, Txn.inst]⟩

theorem OpcodeRow.dbGet (inst : Inst) : OpcodeRow.Statement (.dbGet inst) :=
  ⟨⟨"DB_GET", .i, 0x33, 0, fun t => .dbGet t.inst⟩, List.mem_of_getElem? (i := 15) rfl,
    by cases inst <;>
      (simp only [Row.selects, Row.mask, Row.matchBits, encode, Inst.sel]; decide),
    by cases inst <;> simp [encode, Inst.sel, Txn.inst]⟩

theorem OpcodeRow.fifoPush (word : Word) : OpcodeRow.Statement (.fifoPush word) :=
  ⟨⟨"FIFO_PUSH", .z, 0x40, 1, fun t => .fifoPush t.a⟩, List.mem_of_getElem? (i := 16) rfl,
    by simp only [Row.selects, Row.mask, Row.matchBits, encode]; decide, rfl⟩

theorem OpcodeRow.fifoPop : OpcodeRow.Statement .fifoPop :=
  ⟨⟨"FIFO_POP", .z, 0x41, 0, fun _ => .fifoPop⟩, List.mem_of_getElem? (i := 17) rfl,
    by simp only [Row.selects, Row.mask, Row.matchBits, encode]; decide, rfl⟩

theorem OpcodeRow.ringAppend (word : Word) : OpcodeRow.Statement (.ringAppend word) :=
  ⟨⟨"RING_APPEND", .z, 0x48, 1, fun t => .ringAppend t.a⟩, List.mem_of_getElem? (i := 18) rfl,
    by simp only [Row.selects, Row.mask, Row.matchBits, encode]; decide, rfl⟩

theorem OpcodeRow.ringFlush : OpcodeRow.Statement .ringFlush :=
  ⟨⟨"RING_FLUSH", .z, 0x49, 0, fun _ => .ringFlush⟩, List.mem_of_getElem? (i := 19) rfl,
    by simp only [Row.selects, Row.mask, Row.matchBits, encode]; decide, rfl⟩

theorem OpcodeRow.ringPop : OpcodeRow.Statement .ringPop :=
  ⟨⟨"RING_POP", .z, 0x4A, 0, fun _ => .ringPop⟩, List.mem_of_getElem? (i := 20) rfl,
    by simp only [Row.selects, Row.mask, Row.matchBits, encode]; decide, rfl⟩

end Sys2Proof.Laws
end

