-- ==== Sys2Proof/Tests/Slice0.lean ====
section
/-! SUPPORT. Tests, with their expected results from 95_test_vectors.md, and a witness for the
hypotheses of each statement of Obligations.lean, clause by clause. -/

namespace Sys2Proof.Tests

open Sys2Proof.Machine

/-! ## Helpers -/

/-- The build of 95_test_vectors.md section 0, in RING mode. -/
def ringBuild : Config := { Config.reference with channelMode := .ring }

/-- A reset block in FIFO mode. -/
def fifo : State := State.reset

/-- A reset block in RING mode. -/
def ring : State := State.resetAt ringBuild 0

/-- An array with these words written, from index 0 on. -/
def arr (seed : Nat) (ws : List Word) : Memory := ⟨seed, ws.zipIdx.map fun e => (e.2, e.1)⟩

/-- A buffer with these elements, published or not. -/
def buf (vs : List Word) (ready : Bool) : Buf := ⟨arr 0 vs, vs.length, 0, ready⟩

/-- The outcome of a command on port A. -/
def cmd (w : BitVec 16) (a b : Word) (s : State) : Result := runEvent (.command .a ⟨w, a, b⟩) s

/-- The last response on port A. -/
def answer (x : Result) : Option Response :=
  match x with
  | .next t => t.portA.responses.getLast?
  | _ => none

/-- A field of the next state. -/
def get {α : Type} (f : State → α) (x : Result) : Option α :=
  match x with
  | .next t => some (f t)
  | _ => none

/-- The event is the one the next step runs. -/
def next (e : Event) (s : State) : State := { s with script := [e] }

/-! ## WellFormed: an ill-formed build for each check -/

theorem test_reference_wf : Config.reference.wf = true ∧ ringBuild.wf = true := by decide

theorem test_sysClk_refused : { Config.reference with sysClkHz := 0 }.wf = false ∧
    { Config.reference with sysClkHz := 2 ^ 32 }.sysClkOk = false := by decide

theorem test_minTackt_refused : { Config.reference with minTackt := 2 ^ 31 }.wf = false ∧
    { Config.reference with minTackt := -2 ^ 31 - 1 }.minTacktOk = false := by decide

theorem test_minInterval_refused : { Config.reference with minIntervalCycles := 0 }.wf = false ∧
    { Config.reference with minIntervalCycles := 2 ^ 32 - 1023 }.minIntervalOk = false := by decide

theorem test_minPulsePeriod_refused :
    { Config.reference with minPulsePeriod := 2 ^ 32 }.wf = false := by decide

theorem test_genQDepth_refused : { Config.reference with genQDepth := 0 }.wf = false ∧
    { Config.reference with genQDepth := 16 }.genQDepthOk = false := by decide

theorem test_detQDepth_refused : { Config.reference with detQDepth := 0 }.wf = false ∧
    { Config.reference with detQDepth := 16 }.detQDepthOk = false := by decide

theorem test_dbCap_refused : { Config.reference with dbCap := 0 }.wf = false ∧
    { Config.reference with dbCap := 65536 }.dbCapOk = false := by decide

theorem test_ringCap_refused : { Config.reference with ringCap := 0, ringBatch := 0 }.wf = false ∧
    { Config.reference with ringCap := 65536 }.ringCapOk = false := by decide

theorem test_ringBatch_refused : { Config.reference with ringBatch := 0 }.wf = false ∧
    { Config.reference with ringBatch := 5 }.ringBatchOk = false := by decide

/-! ## Decode: a word of every command (R95, and the programs of 95_test_vectors.md) -/

theorem test_decode_control :
    [(0x0000, 0, 0), (0x0103, 0, 0), (0x0200, 0xAC44, 0x18), (0x0300, 0, 0)].map
      (fun e => decode ⟨e.1, e.2.1, e.2.2⟩) =
    [.ok .nop, .ok (.csrRead 3), .ok (.setFormat 44100 24), .ok .statsClear] := by decide

theorem test_decode_codec :
    [(0x1000, 0x4000, 0), (0x1100, 0x2FF, 0), (0x1200, 0x3E8, 0xFFFFFC17), (0x1300, 0x9C40, 0)].map
      (fun e => decode ⟨e.1, e.2.1, e.2.2⟩) =
    [.ok (.ppmEncode 16384), .ok (.ppmDecode 767), .ok (.downmix 1000 (BitVec.ofInt 32 (-1001))),
      .ok (.pdmStep 40000)] := by decide

theorem test_decode_pulse_and_scheduler :
    [(0x2000, 0x64, 0), (0x2100, 0, 0), (0x2800, 0xC0, 0), (0x2900, 0, 0)].map
      (fun e => decode ⟨e.1, e.2.1, e.2.2⟩) =
    [.ok (.genPush 100), .ok .detPop, .ok (.rxCorrect 192), .ok .rxPoll] := by decide

theorem test_decode_dbuf :
    [(0x3000, 0, 0), (0x3001, 0, 0), (0x3100, 767, 0), (0x3101, 0xFFFF8000, 0), (0x3200, 0, 0),
      (0x3201, 0, 0), (0x3300, 0, 0), (0x3301, 0, 0)].map (fun e => decode ⟨e.1, e.2.1, e.2.2⟩) =
    [.ok (.dbBegin .tx), .ok (.dbBegin .rx), .ok (.dbPut .tx 767),
      .ok (.dbPut .rx (BitVec.ofInt 32 (-32768))), .ok (.dbCommit .tx), .ok (.dbCommit .rx),
      .ok (.dbGet .tx), .ok (.dbGet .rx)] := by decide

theorem test_decode_xcore :
    [(0x4000, 0xDEADBEEF, 0), (0x4100, 0, 0), (0x4800, 7, 0), (0x4900, 0, 0), (0x4A00, 0, 0)].map
      (fun e => decode ⟨e.1, e.2.1, e.2.2⟩) =
    [.ok (.fifoPush 0xDEADBEEF), .ok .fifoPop, .ok (.ringAppend 7), .ok .ringFlush,
      .ok .ringPop] := by decide

/-- 95 section 2.10. -/
theorem test_decode_illegal :
    [0x0001, 0x1001, 0x0400, 0x3002, 0x33FF, 0xFFFF].map (fun w => decode ⟨w, 0, 0⟩) =
    [.error (.selNotZero 0x00 0x01), .error (.selNotZero 0x10 0x01), .error (.reservedOp 0x04),
      .error (.selReserved 0x30 0x02), .error (.selReserved 0x33 0xFF),
      .error (.reservedOp 0xFF)] := by decide

theorem test_decode_bytes :
    decodeBytes [0x00, 0x02, 0x44, 0xAC, 0x00, 0x00, 0x18, 0x00, 0x00, 0x00] =
      .ok (.setFormat 44100 24) ∧
    decodeBytes [0x00, 0x02] = .error (.badLength 2) := by decide

theorem test_decodeTableWord :
    decodeTableWord 16 0x0103 = some (.csrRead 3) ∧ decodeTableWord 16 0x3101 = some (.dbPut .rx 0) ∧
    decodeTableWord 48 0x000003E81200 = some (.downmix 1000 0) ∧ decodeTableWord 16 0x0400 = none ∧
    decodeTableWord 80 0x00000018_0000AC44_0200 = some (.setFormat 44100 24) := by decide

/-! ## Control (95 section 2.9) -/

theorem test_nop : answer (cmd 0x0000 7 7 fifo) = some ⟨.ok, 0⟩ := by decide

theorem test_csrRead_status : answer (cmd 0x0103 0 0 fifo) = some ⟨.ok, 0x10100000⟩ ∧
    answer (cmd 0x0103 0 0 ring) = some ⟨.ok, 0x50100000⟩ := by decide

theorem test_csrRead_minTackt :
    answer (cmd 0x0121 0 0 { fifo with cfg := { Config.reference with minTackt := -5 } }) =
      some ⟨.ok, 0xFFFFFFFB⟩ ∧
    answer (cmd 0x011D 0 0 fifo) = some ⟨.ecsr, 0⟩ := by decide

/-- P5 line 20: a ready buffer and an open unit are lost, the queue of the generator is not. -/
theorem test_setFormat :
    let s := { fifo with
      cfg := { Config.reference with genQDepth := 1 }, tickPending := true, genQ := [800],
      dbTx := ⟨buf [603] false, buf [601] true, false, true, true⟩ }
    let x := cmd 0x0200 0xAC44 0x18 s
    answer x = some ⟨.ok, 0⟩ ∧ get formatWord x = some 3 ∧ get statusWord x = some 0x10100400 := by
  decide

theorem test_setFormat_rejected :
    answer (cmd 0x0200 0xAC44 0x14 fifo) = some ⟨.eformat, 0⟩ ∧
    get (·.fmtRate) (cmd 0x0200 0xAC44 0x14 fifo) = some .r48000 := by decide

theorem test_statsClear :
    get (·.counters.converted) (cmd 0x0300 0 0 (fifo.count .converted)) = some 0 := by decide

/-! ## Codec (95 sections 2.1 to 2.4) -/

theorem test_ppmEncode :
    [0x00004000, 0xFFFFFFBF, 0xFFFFFFBE, 0xFFFF8001, 0x00007FFF].map
      (fun a => answer (cmd 0x1000 a 0 fifo)) =
    [some ⟨.ok, 0x2FF⟩, some ⟨.ok, 0x1FE⟩, some ⟨.ok, 0x1FD⟩, some ⟨.ok, 1⟩, some ⟨.ok, 0x3FF⟩] := by
  decide

theorem test_ppmEncode_rejected :
    answer (cmd 0x1000 0x00008000 0 fifo) = some ⟨.erange, 0⟩ ∧
    get (·.counters.converted) (cmd 0x1000 0x80000000 0 fifo) = some 0 := by decide

theorem test_ppmDecode :
    [0x0, 0x1, 0x1FD, 0x1FF, 0x2FF, 0x400, 0x401].map (fun a => answer (cmd 0x1100 a 0 fifo)) =
    [some ⟨.ok, 0xFFFF8000⟩, some ⟨.ok, 0xFFFF8040⟩, some ⟨.ok, 0xFFFFFFBE⟩, some ⟨.ok, 0⟩,
      some ⟨.ok, 0x4000⟩, some ⟨.ok, 0x7FFF⟩, some ⟨.erange, 0⟩] := by decide

theorem test_ppmDecode_24 :
    [0x0, 0x1, 0x1FE, 0x200, 0x3FE].map
      (fun a => answer (cmd 0x1100 a 0 { fifo with fmtDepth := .d24 })) =
    [some ⟨.ok, 0xFF800000⟩, some ⟨.ok, 0xFF804040⟩, some ⟨.ok, 0xFFFFFFFF⟩, some ⟨.ok, 0x4000⟩,
      some ⟨.ok, 0x7FC000⟩] := by decide

theorem test_downmix :
    [(0x3E8, 0xFFFFFC17), (0xFFFFFFFD, 0xFFFFFFFB), (0x7FFF, 0x7FFF), (0x7FFF, 0xFFFF8000),
      (0x8000, 0)].map (fun e => answer (cmd 0x1200 e.1 e.2 fifo)) =
    [some ⟨.ok, 0xFFFFFFFF⟩, some ⟨.ok, 0xFFFFFFFB⟩, some ⟨.ok, 0x7FFE⟩, some ⟨.ok, 0xFFFFFFFF⟩,
      some ⟨.erange, 0⟩] := by decide

/-- The second step of 95 section 2.4. -/
theorem test_pdmStep :
    let x := cmd 0x1300 0 0 { fifo with pdm := ⟨0, 0, 32767, 1, 1⟩ }
    answer x = some ⟨.ok, 0⟩ ∧
    get (·.pdm) x =
      some ⟨BitVec.ofInt 32 (-32767), BitVec.ofInt 32 (-65534), BitVec.ofInt 32 (-32767), 1, 2⟩ := by
  decide

/-- The last step of the row (16, 32767) of 95 section 2.4. -/
theorem test_pdmStep_word :
    let x := cmd 0x1300 0x7FFF 0 { fifo with pdm := ⟨32767, 32767, 32767, 0x7FFFFFFF, 31⟩ }
    answer x = some ⟨.pdmWord, 0xFFFFFFFF⟩ ∧ get (·.pdm) x = some ⟨32767, 32767, 32767, 0, 0⟩ := by
  decide

/-! ## Pulse generator and detector (95 section 2.5) -/

theorem test_genPush :
    answer (cmd 0x2000 0 0 fifo) = some ⟨.erange, 0⟩ ∧
    answer (cmd 0x2000 101 0 { fifo with genQ := [100] }) = some ⟨.ok, 0⟩ ∧
    get (·.genQ) (cmd 0x2000 101 0 { fifo with genQ := [100] }) = some [100, 101] := by decide

/-- G4 and G6: the command waits, and answers when its hold lifts. -/
theorem test_genPush_waits :
    let s := { fifo with genQ := [1, 2, 3, 100] }
    get (·.portA) (cmd 0x2000 102 0 s) = some ⟨.none, some ⟨0x2000, 102, 0⟩, []⟩ ∧
    get (·.genQ) (runEvent (.proceed .a)
      { fifo with genQ := [101], portA := ⟨.none, some ⟨0x2000, 102, 0⟩, []⟩ }) =
      some [101, 102] := by decide

theorem test_generator_start :
    let s := { fifo with genQ := [100, 101] }
    get statusWord (runEvent .genStart s) = some 0x20100400 ∧
    get (·.genCur) (runEvent .genStart s) = some 100 := by decide

theorem test_generator_end :
    get (fun t => (t.pinOut, t.pulses, t.counters.genPulses))
      (runEvent .genEnd { fifo with genState := .low, pinOut := false, genCur := 100 }) =
    some (true, [100], 1) := by decide

theorem test_detPop :
    answer (cmd 0x2100 0 0 fifo) = some ⟨.empty, 0⟩ ∧
    answer (cmd 0x2100 0 0 { fifo with detQ := [5, 0] }) = some ⟨.ok, 5⟩ ∧
    get (·.detQ) (cmd 0x2100 0 0 { fifo with detQ := [5, 0] }) = some [0] := by decide

theorem test_capture_drops_the_newest :
    get (fun t => (t.detQ, t.counters.detDrop, t.counters.detCaptures))
      (runEvent (.capture 7)
        { fifo with cfg := { Config.reference with detQDepth := 2 }, detQ := [5, 0] }) =
    some ([5, 0], 1, 1) := by decide

/-! ## Scheduler and receive path (95 section 2.6, P2, P3) -/

theorem test_rxCorrect :
    [0xC0, 0xC1, 0x4C0, 0x4C1, 0, 0xFFFFFFFF].map (fun a => answer (cmd 0x2800 a 0 fifo)) =
    [some ⟨.noise, 0⟩, some ⟨.ok, 1⟩, some ⟨.ok, 0x400⟩, some ⟨.noise, 0x401⟩,
      some ⟨.noise, 0xFFFFFF40⟩, some ⟨.noise, 0xFFFFFF3F⟩] := by decide

/-- An accepted value, noise, and P3 line 8: the ring is saturated. -/
theorem test_rxPoll :
    let x := cmd 0x2900 0 0 { fifo with detQ := [592] }
    let y := cmd 0x2900 0 0 { ring with
      detQ := [252], ring := ⟨arr 0 [10, 20], arr 1 [30, 40], 2, 2, 0, 2, false, false, false,
        0, false, 0⟩ }
    answer x = some ⟨.ok, 0x190⟩ ∧
    get (fun t => (t.fifoFull, t.fifoWord, t.counters.rxAccept)) x = some (true, 400, 1) ∧
    answer (cmd 0x2900 0 0 { fifo with detQ := [192] }) = some ⟨.noise, 0xC0⟩ ∧
    answer y = some ⟨.busy, 0x3C⟩ ∧ get (·.counters.ringDrop) y = some 1 := by decide

/-- P2 lines 6 and 8: the poll holds at a full slot, and completes when it is free. -/
theorem test_rxPoll_holds :
    get (·.portA) (cmd 0x2900 0 0 { fifo with detQ := [448], fifoFull := true, fifoWord := 767 }) =
      some ⟨.fwd 256, none, []⟩ ∧
    get (fun t => (t.portA, t.fifoFull, t.fifoWord)) (runEvent (.proceed .a)
      { fifo with portA := ⟨.fwd 256, none, []⟩, fifoWord := 767 }) =
      some (⟨.none, none, [⟨.ok, 0x100⟩]⟩, true, 256) := by decide

/-- The table of TX_TICK: 800, then 801 with the release, then silence. -/
theorem test_txTick :
    let s := { fifo with tickPending := true, dbTx := ⟨buf [600, 601] true, Buf.empty 0, true, false, false⟩ }
    get (·.genQ) (runEvent .txTick s) = some [800] ∧
    get (fun t => (t.genQ, t.dbTx.r, t.dbTx.buf0.ready)) (runEvent .txTick
      { s with dbTx := { s.dbTx with buf0 := { s.dbTx.buf0 with pos := 1 } } }) =
      some ([801], true, false) ∧
    get (fun t => (t.genQ, t.counters.txSilence)) (runEvent .txTick
      { fifo with tickPending := true }) = some ([200], 1) := by decide

theorem test_tick_overrun :
    get (fun t => (t.tickPending, t.counters.tickOverrun))
      (runEvent .tick { fifo with tickPending := true }) = some (true, 1) := by decide

/-! ## Double buffer (95 section 2.7) -/

theorem test_dbBegin :
    answer (cmd 0x3000 0 0 fifo) = some ⟨.ok, 0⟩ ∧
    answer (cmd 0x3000 0 0 { fifo with dbTx := { DBuf.empty 0 with isOpen := true } }) =
      some ⟨.eseq, 0⟩ := by decide

theorem test_dbBegin_rejected :
    let s := { fifo with dbTx := ⟨buf [600] true, buf [601] true, false, false, false⟩ }
    answer (cmd 0x3000 0 0 s) = some ⟨.busy, 0⟩ ∧
    get (·.counters.txdbReject) (cmd 0x3000 0 0 s) = some 1 := by decide

/-- B1, B8 and B14. -/
theorem test_dbPut_rejected :
    answer (cmd 0x3100 5 0 fifo) = some ⟨.eseq, 0⟩ ∧
    answer (cmd 0x3100 8 0
      { fifo with dbTx := ⟨buf [0, 1, 2, 3, 4, 5, 6, 7] false, Buf.empty 0, false, false, true⟩ }) =
      some ⟨.erange, 8⟩ ∧
    answer (cmd 0x3101 0x8000 0 { fifo with dbRx := { DBuf.empty 0 with isOpen := true } }) =
      some ⟨.erange, 0⟩ := by decide

theorem test_dbPut :
    let x := cmd 0x3101 0xFFFFFFFB 0
      { fifo with dbRx := ⟨buf [0xFFFF8000] false, Buf.empty 0, false, false, true⟩ }
    answer x = some ⟨.ok, 2⟩ ∧ get (·.dbRx.buf0) x = some (buf [0xFFFF8000, 0xFFFFFFFB] false) := by
  decide

theorem test_dbCommit :
    let s := { fifo with dbRx := ⟨buf [0xFFFF8000, 0xFFFFFFFB] false, Buf.empty 0, false, false, true⟩ }
    answer (cmd 0x3201 0 0 s) = some ⟨.ok, 2⟩ ∧
    get (fun t => (t.dbRx.buf0.ready, t.dbRx.w, t.dbRx.isOpen)) (cmd 0x3201 0 0 s) =
      some (true, true, false) := by decide

theorem test_dbCommit_empty :
    let s := { fifo with dbTx := { DBuf.empty 0 with isOpen := true } }
    answer (cmd 0x3200 0 0 s) = some ⟨.empty, 0⟩ ∧ get (·.dbTx) (cmd 0x3200 0 0 s) = some (DBuf.empty 0) ∧
    answer (cmd 0x3200 0 0 fifo) = some ⟨.eseq, 0⟩ := by decide

/-- B18: the last element releases the buffer. -/
theorem test_dbGet :
    let s := { fifo with
      dbRx := ⟨{ buf [0xFFFF8000, 0xFFFFFFFB] true with pos := 1 }, Buf.empty 0, true, false, false⟩ }
    answer (cmd 0x3301 0 0 s) = some ⟨.ok, 0xFFFFFFFB⟩ ∧
    get (fun t => (t.dbRx.r, t.dbRx.buf0.ready, t.dbRx.buf0.size)) (cmd 0x3301 0 0 s) =
      some (true, false, 0) := by decide

theorem test_dbGet_refused : answer (cmd 0x3301 0 0 fifo) = some ⟨.empty, 0⟩ ∧
    answer (cmd 0x3300 0 0 fifo) = some ⟨.emode, 0⟩ := by decide

/-! ## Cross-core channel (95 section 2.8) -/

theorem test_fifoPush :
    let x := cmd 0x4000 0xDEADBEEF 0 fifo
    answer x = some ⟨.ok, 0⟩ ∧ get (fun t => (t.fifoFull, t.fifoWord)) x = some (true, 0xDEADBEEF) ∧
    answer (cmd 0x4000 5 0 ring) = some ⟨.emode, 0⟩ := by decide

theorem test_fifoPop :
    answer (cmd 0x4100 0 0 fifo) = none ∧
    answer (cmd 0x4100 0 0 { fifo with fifoFull := true, fifoWord := 0xDEADBEEF }) =
      some ⟨.ok, 0xDEADBEEF⟩ ∧
    answer (cmd 0x4100 0 0 ring) = some ⟨.emode, 0⟩ := by decide

/-- X4: the second word of a batch publishes it. -/
theorem test_ringAppend :
    let x := cmd 0x4800 8 0
      { ring with ring := ⟨arr 0 [7], arr 1 [], 0, 0, 1, 0, false, false, true, 1, false, 0⟩ }
    answer x = some ⟨.ok, 0⟩ ∧
    get (·.ring) x = some ⟨arr 0 [7, 8], arr 1 [], 2, 0, 1, 1, true, false, false, 0, false, 0⟩ := by
  decide

/-- X7. -/
theorem test_ringAppend_dropped :
    let x := cmd 0x4800 11 0
      { ring with ring := ⟨arr 0 [7, 8], arr 1 [9, 10], 2, 2, 0, 2, false, false, false, 0,
          false, 0⟩ }
    answer x = some ⟨.busy, 0⟩ ∧ get (·.counters.ringDrop) x = some 1 ∧
    answer (cmd 0x4800 11 0 fifo) = some ⟨.emode, 0⟩ := by decide

/-- X11. -/
theorem test_ringFlush :
    let x := cmd 0x4900 0 0
      { ring with ring := ⟨arr 0 [12, 8], arr 1 [9, 10], 0, 2, 0, 1, false, true, true, 1,
          false, 0⟩ }
    answer x = some ⟨.ok, 1⟩ ∧
    get (fun t => (t.ring.semFull, t.ring.rsize0, t.ring.wheld)) x = some (2, 1, false) ∧
    answer (cmd 0x4900 0 0 ring) = some ⟨.empty, 0⟩ := by decide

/-- X9: the last word of a batch releases its array. -/
theorem test_ringPop :
    let x := cmd 0x4A00 0 0
      { ring with ring := ⟨arr 0 [7, 8], arr 1 [9, 10], 2, 2, 0, 1, false, false, false, 0,
          true, 1⟩ }
    answer x = some ⟨.ok, 8⟩ ∧
    get (fun t => (t.ring.semEmpty, t.ring.ri, t.ring.rheld, t.counters.xfer)) x =
      some (1, true, false, 1) := by decide

theorem test_ringPop_empty : answer (cmd 0x4A00 0 0 ring) = some ⟨.empty, 0⟩ ∧
    answer (cmd 0x4A00 0 0 fifo) = some ⟨.emode, 0⟩ := by decide

/-! ## The step -/

theorem test_illegal :
    answer (cmd 0x1001 0 0 fifo) = some ⟨.illegal, 0⟩ ∧
    get (·.portA.cmd) (cmd 0x1001 0 0 fifo) = some none := by decide

/-- R255: the tick goes first. -/
theorem test_tick_goes_first :
    get (·.portA) (cmd 0x0000 0 0 { fifo with tickPending := true }) =
      some ⟨.none, some ⟨0, 0, 0⟩, []⟩ := by decide

theorem test_step_runs_placed_word :
    answer (step (State.reset.withFetchWord 16 0x0103)) = some ⟨.ok, 0x10100000⟩ := by decide

theorem test_powerOn :
    get id (runEvent .powerOn { fifo with genQ := [1], fifoFull := true, active := .b }) =
      some (State.resetAt Config.reference 6) := by decide

/-- R27, R30, I1, I2: a word that nothing has written since reset is a free word, and no stop. -/
theorem test_memRead_unwritten :
    memRead 8 (Memory.unwritten 3) 7 = .ok (Config.freeWord 3 7) ∧
    memRead 8 ((Memory.unwritten 3).insert 7 5) 7 = .ok 5 ∧
    memRead 8 (Memory.unwritten 3) 8 = .error .arrayBounds := ⟨rfl, rfl, rfl⟩

theorem test_assemble :
    assemble Config.reference "PPM_ENCODE -32768" = some [⟨0x1000, 0xFFFF8000, 0⟩] ∧
    assemble Config.reference "SEND_CODE 400" = some [⟨0x2000, 600, 0⟩] := by decide

/-! ## Witnesses: for each statement of Obligations.lean with hypotheses, a case that meets them -/

/-- Every cursor and every size at the top of its field. -/
def wide : State :=
  { fifo with
    genQ := List.replicate 15 1, detQ := List.replicate 15 0,
    dbTx := ⟨⟨arr 0 [], 65535, 65535, true⟩, ⟨arr 0 [], 65535, 65535, true⟩, true, true, true⟩,
    dbRx := ⟨⟨arr 0 [], 65535, 65535, true⟩, ⟨arr 0 [], 65535, 65535, true⟩, true, true, true⟩,
    ring := ⟨arr 0 [], arr 1 [], 65535, 65535, 3, 3, true, true, true, 65535, true, 65535⟩ }

/-- A TX unit of two codes, published; and one open in RX. -/
def midRun : State :=
  { fifo with
    tickPending := true, dbTx := ⟨buf [600, 1023] true, Buf.empty 0, true, false, false⟩,
    dbRx := ⟨buf [0xFFFF8000] false, Buf.empty 0, false, false, true⟩ }

/-- RING mode: array 0 published with [7, 8], array 1 held by the writer with [9]. -/
def ringMid : State :=
  { ring with
    ring := ⟨arr 0 [7, 8], arr 1 [9], 2, 0, 0, 1, true, false, true, 1, false, 0⟩ }

theorem witness_CounterCsrsReadTheCounters :
    ((0x10, .txCode) : BitVec 8 × CounterId) ∈ [(0x10, CounterId.txCode)] ∧
    ((0x1C, .detCaptures) : BitVec 8 × CounterId) ∈ [(0x1C, CounterId.detCaptures)] := by decide

theorem witness_StatusRegisterShowsItsFields :
    wide.genQ.length ≤ 15 ∧ wide.detQ.length ≤ 15 ∧ wide.ring.semEmpty ≤ 3 ∧
    wide.ring.semFull ≤ 3 := by decide

theorem witness_ElementCsrsReadTheirElements :
    wide.dbTx.buf0.size < 65536 ∧ wide.dbTx.buf0.pos < 65536 ∧ wide.dbTx.buf1.size < 65536 ∧
    wide.dbTx.buf1.pos < 65536 ∧ wide.dbRx.buf0.size < 65536 ∧ wide.dbRx.buf0.pos < 65536 ∧
    wide.dbRx.buf1.size < 65536 ∧ wide.dbRx.buf1.pos < 65536 ∧ wide.ring.rsize1 < 65536 ∧
    wide.ring.rsize0 < 65536 ∧ wide.ring.rpos < 65536 ∧ wide.ring.wcount < 65536 := by decide

/-- The smallest and the largest build. -/
theorem witness_ConfigurationCsrsReadTheBuild :
    (⟨1, -2 ^ 31, 1, 0, 1, 1, 1, 1, 1, 0, 0, .fifo⟩ : Config).wf = true ∧
    (⟨2 ^ 32 - 1, 2 ^ 31 - 1, 2 ^ 32 - 1024, 2 ^ 32 - 1, 15, 15, 65535, 65535, 65535, 0, 0,
      .ring⟩ : Config).wf = true := by decide

theorem witness_CsrReadAnswersAtEveryAddress_unmapped :
    ∀ csr ∈ ([0x1D, 0x1F, 0x2B, 0xFF] : List (BitVec 8)),
      0x1D ≤ csr.toNat ∧ csr.toNat ≤ 0x1F ∨ 0x2B ≤ csr.toNat := by decide

theorem witness_CsrReadAnswersAtEveryAddress_mapped :
    ∀ csr ∈ ([0x00, 0x1C, 0x20, 0x2A] : List (BitVec 8)),
      ¬ (0x1D ≤ csr.toNat ∧ csr.toNat ≤ 0x1F ∨ 0x2B ≤ csr.toNat) := by decide

theorem witness_NopAnswersOk : (0x01 : BitVec 8) ≠ 0 ∧ (0xFF : BitVec 8) ≠ 0 := by decide

theorem witness_SetFormatIsAllOrNothing_accepted :
    (44100 : Word).toNat = Rate.r44100.hz ∧ (48000 : Word).toNat = Rate.r48000.hz ∧
    (16 : Word).toNat = Depth.d16.bits ∧ (24 : Word).toNat = Depth.d24.bits := by decide

theorem witness_SetFormatIsAllOrNothing_rejected :
    ((44101 : Word).toNat ≠ 44100 ∧ (44101 : Word).toNat ≠ 48000) ∧
    ((20 : Word).toNat ≠ 16 ∧ (20 : Word).toNat ≠ 24) := by decide

theorem witness_EncodeFormula :
    (Depth.d16.min ≤ 0 ∧ (0 : Int) ≤ Depth.d16.max) ∧ (Depth.d24.min ≤ -1 ∧ (-1 : Int) ≤ Depth.d24.max) ∧
    (Depth.d16.min ≤ Depth.d16.max ∧ 0 ≤ Depth.d16.max) ∧
    (Depth.d24.min ≤ Depth.d24.max ∧ Depth.d24.min < 0) := by decide

theorem witness_PpmEncodeAnswersTheCode_in_range :
    Depth.d16.min ≤ (0xFFFF8000 : Word).toInt ∧ (0xFFFF8000 : Word).toInt ≤ Depth.d16.max ∧
    Depth.d24.min ≤ (0x7FFFFF : Word).toInt ∧ (0x7FFFFF : Word).toInt ≤ Depth.d24.max := by decide

theorem witness_PpmEncodeAnswersTheCode_out_of_range :
    (0xFFFF7FFF : Word).toInt < Depth.d16.min ∧ Depth.d24.max < (0x800000 : Word).toInt := by decide

theorem witness_DecodeFormula :
    (1024 ≤ 1024 ∧ 511 ≤ min 1024 1023) ∧ (511 ≤ 1024 ∧ 511 ≤ min 511 1023) ∧
    (510 ≤ 1024 ∧ min 510 1023 ≤ 510) ∧ (0 ≤ 1024 ∧ min 0 1023 ≤ 510) ∧
    (Depth.d16.min ≤ -65 ∧ (-65 : Int) ≤ Depth.d16.max ∧
      ppmCode .d16 (-65) = (min 510 1023 : Nat)) := by decide

theorem witness_PpmDecodeAnswersTheSample :
    (1024 : Word).toNat ≤ 1024 ∧ (0 : Word).toNat ≤ 1024 ∧ 1024 < (1025 : Word).toNat := by decide

theorem witness_CodecSatisfiesTheLaws :
    ((0 : Int) ≤ 32767 ∧ (32767 : Int) ≤ 32767) ∧ ((-32768 : Int) ≤ -32768 ∧ (-32768 : Int) < 0) ∧
    ((0 : Int) ≤ 8388607 ∧ (8388607 : Int) ≤ 8388607) ∧
    ((-8388608 : Int) ≤ -8388608 ∧ (-8388608 : Int) < 0) := by decide

/-- The laws that hold at both depths, at the ends of their ranges. -/
theorem witness_CodecSatisfiesTheLaws_both_depths :
    (Depth.d24.min ≤ Depth.d24.min ∧ Depth.d24.min ≤ Depth.d24.max ∧ Depth.d24.max ≤ Depth.d24.max) ∧
    ((0 : Nat) ≤ 1024 ∧ (1024 : Nat) ≤ 1024) ∧
    ((0 : Int) < Depth.d24.max ∧ Depth.d24.max ≤ Depth.d24.max) ∧
    (Depth.d24.min ≤ Depth.d24.min ∧ Depth.d24.min < 0) := by decide

theorem witness_SamplesOutOfRangeAreRejected :
    (Depth.d16.max < (0x8000 : Word).toInt) ∧ ((0xFF7FFFFF : Word).toInt < Depth.d24.min) := by decide

theorem witness_DownmixAddsTheHalves_in_range :
    Depth.d16.min ≤ (0xFFFF8000 : Word).toInt ∧ (0xFFFF8000 : Word).toInt ≤ Depth.d16.max ∧
    Depth.d16.min ≤ (0x7FFF : Word).toInt ∧ (0x7FFF : Word).toInt ≤ Depth.d16.max := by decide

theorem witness_DownmixAddsTheHalves_out_of_range :
    Depth.d16.max < (0x8000 : Word).toInt ∧ (0xFF7FFFFF : Word).toInt < Depth.d24.min := by decide

/-- A step that does not complete the word (CNT 30 to 31). -/
theorem witness_PdmStepIntegratesAndPacks_ok :
    let s := { fifo with pdm := ⟨0, 0, 0, 0, 30⟩ }
    s.fmtDepth.min ≤ (0 : Word).toInt ∧ (0 : Word).toInt ≤ s.fmtDepth.max ∧
    (0 : Word) = s.pdm.i1 + 0 - s.pdm.prev ∧ (0 : Word) = s.pdm.i2 + 0 - s.pdm.prev ∧
    true = decide (0 ≤ (0 : Word).toInt) ∧ (32767 : Word).toInt = s.fmtDepth.max ∧
    (0x40000000 : Word) = s.pdm.acc ||| 1#32 <<< s.pdm.cnt.val ∧ (31 : Fin 32).val = s.pdm.cnt.val + 1 := by
  decide

/-- The step that completes the word, with bit 0. -/
theorem witness_PdmStepIntegratesAndPacks_word :
    let s := { fifo with pdm := ⟨0, 0xFFFFFFFF, 0, 5, 31⟩ }
    s.fmtDepth.min ≤ (0 : Word).toInt ∧ (0 : Word).toInt ≤ s.fmtDepth.max ∧
    (0 : Word) = s.pdm.i1 + 0 - s.pdm.prev ∧ (0xFFFFFFFF : Word) = s.pdm.i2 + 0 - s.pdm.prev ∧
    false = decide (0 ≤ (0xFFFFFFFF : Word).toInt) ∧
    (0xFFFF8001 : Word).toInt = -s.fmtDepth.max ∧ (5 : Word) = s.pdm.acc ||| 0 ∧
    s.pdm.cnt.val = 31 := by decide

theorem witness_PdmStepIntegratesAndPacks_out_of_range :
    Depth.d16.max < (0x9C40 : Word).toInt ∧ (0xFFFF7FFF : Word).toInt < Depth.d16.min := by decide

theorem witness_GenPushQueuesOrWaits :
    ((1 : Word) ≠ 0 ∧ { fifo with genQ := [1, 2, 3] }.genQ.length < fifo.cfg.genQDepth) ∧
    ((0xFFFFFFFF : Word) ≠ 0 ∧ fifo.cfg.genQDepth ≤ { fifo with genQ := [1, 2, 3, 4] }.genQ.length) := by
  decide

theorem witness_DetPopTakesTheOldestMeasurement :
    fifo.detQ = [] ∧ { fifo with detQ := [0] }.detQ = 0 :: [] := by decide

theorem witness_GeneratorStepsStartAndEndAPulse :
    (fifo.genState = .idle ∧ { fifo with genQ := [100] }.genQ = 100 :: []) ∧
    ({ fifo with genState := .low }.genState = .low) ∧ fifo.genQ = [] := by decide

theorem witness_CaptureAndTickNeverBlock :
    ({ fifo with detQ := [1, 2, 3] }.detQ.length < fifo.cfg.detQDepth) ∧
    (fifo.cfg.detQDepth ≤ { fifo with detQ := [1, 2, 3, 4] }.detQ.length) ∧
    midRun.tickPending = true ∧ fifo.tickPending = false := by decide

theorem witness_TxTickSendsACodeOrSilence_not_enabled :
    fifo.tickPending = false ∧ fifo.cfg.genQDepth ≤ { midRun with genQ := [1, 2, 3, 4] }.genQ.length := by
  decide

theorem witness_TxTickSendsACodeOrSilence_code :
    let b := midRun.dbTx.buf midRun.dbTx.r
    midRun.tickPending = true ∧ midRun.genQ.length < midRun.cfg.genQDepth ∧ b.ready = true ∧
    b.pos < b.size ∧ b.pos < midRun.cfg.dbCap ∧ 600 = Memory.get b.payload b.pos ∧
    (800 : Word) = BitVec.ofNat 32 (midRun.cfg.minIntervalCycles + (600 : Word).toNat) ∧
    b.pos + 1 < b.size := by decide

theorem witness_TxTickSendsACodeOrSilence_last_code :
    let s := { midRun with dbTx := ⟨{ buf [600, 1023] true with pos := 1 }, Buf.empty 0, true, false, false⟩ }
    let b := s.dbTx.buf s.dbTx.r
    s.tickPending = true ∧ s.genQ.length < s.cfg.genQDepth ∧ b.ready = true ∧ b.pos < b.size ∧
    b.pos < s.cfg.dbCap ∧ 1023 = Memory.get b.payload b.pos ∧
    (1223 : Word) = BitVec.ofNat 32 (s.cfg.minIntervalCycles + (1023 : Word).toNat) ∧
    b.pos + 1 = b.size := by decide

theorem witness_TxTickSendsACodeOrSilence_silence :
    let s := { fifo with tickPending := true }
    s.tickPending = true ∧ s.genQ.length < s.cfg.genQDepth ∧
    (200 : Word) = BitVec.ofNat 32 s.cfg.minIntervalCycles ∧
    (s.dbTx.buf s.dbTx.r).ready = false := by decide

/-- No run reaches it: a ready buffer whose elements are all read. -/
theorem witness_TxTickSendsACodeOrSilence_exhausted :
    let s := { midRun with dbTx := ⟨{ buf [600] true with pos := 1 }, Buf.empty 0, true, false, false⟩ }
    s.tickPending = true ∧ s.genQ.length < s.cfg.genQDepth ∧
    (200 : Word) = BitVec.ofNat 32 s.cfg.minIntervalCycles ∧
    (s.dbTx.buf s.dbTx.r).ready = true ∧
    (s.dbTx.buf s.dbTx.r).size ≤ (s.dbTx.buf s.dbTx.r).pos := by decide

/-- Corrected values 0, 1, 1024 and 1025. -/
theorem witness_RxCorrectAnswersTheCorrection :
    (0 : Int) = ((192 : Word).toNat : Int) + fifo.cfg.minTackt - fifo.cfg.minIntervalCycles ∧
    (1 : Int) = ((193 : Word).toNat : Int) + fifo.cfg.minTackt - fifo.cfg.minIntervalCycles ∧
    (1024 : Int) = ((1216 : Word).toNat : Int) + fifo.cfg.minTackt - fifo.cfg.minIntervalCycles ∧
    (1025 : Int) = ((1217 : Word).toNat : Int) + fifo.cfg.minTackt - fifo.cfg.minIntervalCycles := by
  decide

/-- Noise at both ends: corrected values 0 and 1025. -/
theorem witness_RxPollCorrectsAndForwards_empty_and_noise :
    fifo.detQ = [] ∧ { fifo with detQ := [192, 5] }.detQ = 192 :: [5] ∧
    (0 : Int) = ((192 : Word).toNat : Int) + fifo.cfg.minTackt - fifo.cfg.minIntervalCycles ∧
    { fifo with detQ := [1217] }.detQ = 1217 :: [] ∧
    (1025 : Int) = ((1217 : Word).toNat : Int) + fifo.cfg.minTackt - fifo.cfg.minIntervalCycles := by
  decide

theorem witness_RxPollCorrectsAndForwards_fifo :
    let s := { fifo with detQ := [193] }
    s.detQ = 193 :: [] ∧
    (1 : Int) = ((193 : Word).toNat : Int) + s.cfg.minTackt - s.cfg.minIntervalCycles ∧
    ((1 : Word).toNat : Int) = 1 ∧ s.cfg.channelMode = .fifo ∧ s.fifoFull = false ∧
    { s with fifoFull := true }.fifoFull = true := by decide

theorem witness_RxPollCorrectsAndForwards_ring_full :
    let s := { ring with detQ := [1216], ring := { Ring.empty 0 with semEmpty := 0, semFull := 2 } }
    s.detQ = 1216 :: [] ∧
    (1024 : Int) = ((1216 : Word).toNat : Int) + s.cfg.minTackt - s.cfg.minIntervalCycles ∧
    ((1024 : Word).toNat : Int) = 1024 ∧ s.cfg.channelMode = .ring ∧ s.ring.wheld = false ∧
    s.ring.semEmpty = 0 := by decide

theorem witness_RxPollCorrectsAndForwards_ring :
    let s := { ringMid with detQ := [193] }
    s.detQ = 193 :: [] ∧
    (1 : Int) = ((193 : Word).toNat : Int) + s.cfg.minTackt - s.cfg.minIntervalCycles ∧
    ((1 : Word).toNat : Int) = 1 ∧ s.cfg.channelMode = .ring ∧
    (s.ring.wheld = true ∧ s.ring.wcount < s.cfg.ringCap) ∧
    (ring.ring.wheld = false ∧ ring.ring.semEmpty ≠ 0 ∧ 0 < ring.cfg.ringCap) := by decide

theorem witness_HeldForwardCompletesWhenTheSlotIsFree :
    let s := { fifo with portB := ⟨.fwd 256, none, []⟩ }
    s.txTickEnabled = false ∧ (s.port .b).hold = .fwd 256 ∧ s.fifoFull = false ∧
    { s with fifoFull := true }.fifoFull = true := by decide

theorem witness_CorrectionUndoesTheNominalMeasurement :
    Config.reference.wf = true ∧
    ((0 : Word).toNat ≤ 1023 ∧
      nominalMeasurement Config.reference (widthSent Config.reference 0) = some 192) ∧
    ((1023 : Word).toNat ≤ 1023 ∧
      nominalMeasurement Config.reference (widthSent Config.reference 1023) = some 1215) := by decide

theorem witness_DbBeginOpensAUnit :
    (midRun.db .rx).isOpen = true ∧
    (let s := { fifo with dbTx := ⟨buf [1] true, buf [2] true, false, false, false⟩ };
      (s.db .tx).isOpen = false ∧ ((s.db .tx).buf (s.db .tx).w).ready = true) ∧
    ((fifo.db .tx).isOpen = false ∧ ((fifo.db .tx).buf (fifo.db .tx).w).ready = false) := by decide

theorem witness_DbPutAppendsAnElement_rejected :
    (fifo.db .tx).isOpen = false ∧ (midRun.db .rx).isOpen = true ∧
    (midRun.fmtDepth.max < (0x8000 : Word).toInt) ∧ 1023 < (1024 : Word).toNat := by decide

theorem witness_DbPutAppendsAnElement_full :
    let s := { fifo with dbTx := ⟨buf [0, 1, 2, 3, 4, 5, 6, 7] false, Buf.empty 0, false, false, true⟩ }
    (s.db .tx).isOpen = true ∧ (1023 : Word).toNat ≤ 1023 ∧
    ((s.db .tx).buf (s.db .tx).w).size = s.cfg.dbCap := by decide

theorem witness_DbPutAppendsAnElement :
    (midRun.db .rx).isOpen = true ∧ midRun.fmtDepth.min ≤ (0xFFFF8000 : Word).toInt ∧
    (0xFFFF8000 : Word).toInt ≤ midRun.fmtDepth.max ∧
    ((midRun.db .rx).buf (midRun.db .rx).w).size < midRun.cfg.dbCap := by decide

theorem witness_DbCommitPublishesTheUnit :
    (fifo.db .tx).isOpen = false ∧
    (let s := { fifo with dbTx := ⟨Buf.empty 0, Buf.empty 0, true, true, true⟩ };
      (s.db .tx).isOpen = true ∧ ((s.db .tx).buf (s.db .tx).w).size = 0) ∧
    ((midRun.db .rx).isOpen = true ∧ ((midRun.db .rx).buf (midRun.db .rx).w).size ≠ 0) := by decide

theorem witness_DbGetTakesTheNextElement :
    (fifo.dbRx.buf fifo.dbRx.r).ready = false ∧
    (let b : Buf := { buf [5] true with pos := 1 };
      b.ready = true ∧ b.size ≤ b.pos) ∧
    (let b : Buf := buf [5, 6] true;
      b.ready = true ∧ b.pos < b.size ∧ b.pos < fifo.cfg.dbCap ∧
        5 = Memory.get b.payload b.pos ∧ b.pos + 1 < b.size) ∧
    (let b : Buf := { buf [5, 6] true with pos := 1 };
      b.ready = true ∧ b.pos < b.size ∧ b.pos < fifo.cfg.dbCap ∧
        6 = Memory.get b.payload b.pos ∧ b.pos + 1 = b.size) := by decide

theorem witness_FifoPushFillsTheSlotOrWaits :
    ring.cfg.channelMode = .ring ∧ (fifo.cfg.channelMode = .fifo ∧ fifo.fifoFull = false) ∧
    { fifo with fifoFull := true }.fifoFull = true := by decide

theorem witness_FifoPopEmptiesTheSlotOrWaits :
    ring.cfg.channelMode = .ring ∧ (fifo.cfg.channelMode = .fifo ∧ fifo.fifoFull = false) ∧
    { fifo with fifoFull := true }.fifoFull = true := by decide

/-- The slot stays full through a tick, and a FIFO_POP empties it: one presented on port B, and one
that waited in port A. -/
theorem witness_FifoWordIsNeverOverwritten :
    let s := { fifo with
      fifoFull := true, fifoWord := 5, portA := ⟨.none, some ⟨0x4100, 0, 0⟩, []⟩ }
    Event.tick ≠ .powerOn ∧ s.fifoFull = true ∧ get (·.fifoFull) (runEvent .tick s) = some true ∧
    runsTxn (.command .b ⟨0x4100, 0, 0⟩) s .b ⟨0x4100, 0, 0⟩ ∧
    get (·.fifoFull) (runEvent (.command .b ⟨0x4100, 0, 0⟩) s) = some false ∧
    runsTxn (.proceed .a) s .a ⟨0x4100, 0, 0⟩ ∧
    answer (runEvent (.proceed .a) s) = some ⟨.ok, 5⟩ :=
  ⟨by decide, rfl, by decide, ⟨by decide, rfl, .inl ⟨rfl, rfl⟩⟩, by decide,
    ⟨by decide, rfl, .inr ⟨rfl, rfl⟩⟩, by decide⟩

theorem witness_RingAppendWritesPublishesOrDrops_dropped :
    let s := { ring with ring := { Ring.empty 0 with semEmpty := 0, semFull := 2 } }
    0 = (if s.ring.wheld then s.ring.wcount else 0) ∧
    0 = (if s.ring.wheld then s.ring.semEmpty else s.ring.semEmpty - 1) ∧
    s.cfg.channelMode = .ring ∧ s.ring.wheld = false ∧ s.ring.semEmpty = 0 ∧
    fifo.cfg.channelMode = .fifo := by decide

theorem witness_RingAppendWritesPublishesOrDrops_first_word :
    0 = (if ring.ring.wheld then ring.ring.wcount else 0) ∧
    1 = (if ring.ring.wheld then ring.ring.semEmpty else ring.ring.semEmpty - 1) ∧
    ring.cfg.channelMode = .ring ∧ ring.ring.semEmpty ≠ 0 ∧ 0 < ring.cfg.ringCap ∧
    0 + 1 ≠ ring.cfg.ringBatch := by decide

theorem witness_RingAppendWritesPublishesOrDrops_last_word :
    1 = (if ringMid.ring.wheld then ringMid.ring.wcount else 0) ∧
    0 = (if ringMid.ring.wheld then ringMid.ring.semEmpty else ringMid.ring.semEmpty - 1) ∧
    ringMid.cfg.channelMode = .ring ∧ ringMid.ring.wheld = true ∧ 1 < ringMid.cfg.ringCap ∧
    1 + 1 = ringMid.cfg.ringBatch := by decide

theorem witness_RingFlushPublishesThePartialBatch :
    fifo.cfg.channelMode = .fifo ∧
    (ringMid.cfg.channelMode = .ring ∧ ringMid.ring.wheld = true ∧ 0 < ringMid.ring.wcount) ∧
    (ring.cfg.channelMode = .ring ∧ ring.ring.wheld = false) := by decide

theorem witness_RingPopTakesTheNextWord_empty :
    0 = (if ring.ring.rheld then ring.ring.rpos else 0) ∧
    0 = (if ring.ring.rheld then ring.ring.semFull else ring.ring.semFull - 1) ∧
    ring.cfg.channelMode = .ring ∧ ring.ring.rheld = false ∧ ring.ring.semFull = 0 ∧
    fifo.cfg.channelMode = .fifo := by decide

theorem witness_RingPopTakesTheNextWord_word :
    0 = (if ringMid.ring.rheld then ringMid.ring.rpos else 0) ∧
    0 = (if ringMid.ring.rheld then ringMid.ring.semFull else ringMid.ring.semFull - 1) ∧
    ringMid.cfg.channelMode = .ring ∧ ringMid.ring.semFull ≠ 0 ∧ 0 < ringMid.cfg.ringCap ∧
    7 = Memory.get (ringMid.ring.array ringMid.ring.ri) 0 ∧
    0 + 1 ≠ ringMid.ring.rsize ringMid.ring.ri := by decide

theorem witness_RingPopTakesTheNextWord_last_word :
    let r := { ringMid.ring with semFull := 0, rheld := true, rpos := 1 }
    1 = (if r.rheld then r.rpos else 0) ∧ 0 = (if r.rheld then r.semFull else r.semFull - 1) ∧
    ringMid.cfg.channelMode = .ring ∧ r.rheld = true ∧ 1 < ringMid.cfg.ringCap ∧
    8 = Memory.get (r.array r.ri) 1 ∧ 1 + 1 = r.rsize r.ri := by decide

theorem witness_StepRunsTheDecodedCommand_script :
    (next .tick fifo).script = .tick :: [] ∧ fifo.script = [] := by decide

theorem witness_StepRunsTheDecodedCommand_command :
    let s := next (.command .b ⟨0x2000, 5, 0⟩) fifo
    s.script = .command .b ⟨0x2000, 5, 0⟩ :: [] ∧ (s.port .b).hold = .none ∧ (s.port .b).cmd = none ∧
    s.txTickEnabled = false ∧ decode ⟨0x2000, 5, 0⟩ = .ok (.genPush 5) := by decide

theorem witness_StepRunsTheDecodedCommand_proceed :
    let s := next (.proceed .a) { fifo with portA := ⟨.none, some ⟨0x4100, 0, 0⟩, []⟩ }
    s.script = .proceed .a :: [] ∧ (s.port .a).hold = .none ∧
    (s.port .a).cmd = some ⟨0x4100, 0, 0⟩ ∧ s.txTickEnabled = false ∧
    decode ⟨0x4100, 0, 0⟩ = .ok .fifoPop := by decide

theorem witness_StepRunsTheDecodedCommand_placed :
    decodeTableWord 16 0x3101 = some (.dbPut .rx 0) := by decide

/-- The three reasons of R96 at their boundaries, and a word that is illegal. -/
theorem witness_IllegalCommandsChangeNothing :
    ((0x04 : BitVec 8) ∉ ([0x00, 0x01, 0x02, 0x03] : List (BitVec 8)) ∧
      decode ⟨0x04#8 ++ 0x00#8, 0, 0⟩ = .error (.reservedOp 0x04)) ∧
    ((0x01 : BitVec 8) ≠ 0 ∧ decode ⟨0x4A#8 ++ 0x01#8, 0, 0⟩ = .error (.selNotZero 0x4A 0x01)) ∧
    (2 ≤ (0x02 : BitVec 8).toNat ∧ decode ⟨0x30#8 ++ 0x02#8, 0, 0⟩ = .error (.selReserved 0x30 0x02)) ∧
    fifo.portFree .b = true ∧ fifo.txTickEnabled = false := by decide

/-- An illegal word that was presented while TX_TICK was enabled, and then runs. -/
theorem witness_IllegalCommandsChangeNothing_waiting :
    let s := { fifo with portB := ⟨.none, some ⟨0x3002, 0, 0⟩, []⟩ }
    (s.port .b).hold = .none ∧ (s.port .b).cmd = some ⟨0x3002, 0, 0⟩ ∧ s.txTickEnabled = false ∧
    decode ⟨0x3002, 0, 0⟩ = .error (.selReserved 0x30 0x02) ∧
    get (·.portB) (runEvent (.proceed .b) s) = some ⟨.none, none, [⟨.illegal, 0⟩]⟩ := by decide

theorem witness_TickGoesFirstAndBusyPortsAcceptNothing :
    (midRun.txTickEnabled = true ∧ midRun.portFree .b = true) ∧
    (let s := { fifo with
      portA := ⟨.none, some ⟨0x4100, 0, 0⟩, []⟩, portB := ⟨.fwd 1, none, []⟩ };
      (s.port .a).cmd ≠ none ∧ (s.port .b).hold ≠ .none) ∧
    ((fifo.port .a).cmd = none ∧ (fifo.port .a).hold = .none) := by decide

theorem witness_ResetLeavesTheResetValues : ringBuild.wf = true ∧ ring = State.resetAt ringBuild 0 := by
  decide

/-- A step that commits the open unit of an RX buffer that meets the invariant. -/
theorem witness_DoubleBufferInvariantsAreKept :
    let s := next (.command .b ⟨0x3201, 0, 0⟩) { midRun with tickPending := false }
    dbWf s.cfg.dbCap (elementOk .rx s.fmtDepth) (s.db .rx) = true ∧ (∃ t, step s = .next t) ∧
    (1 ≤ (s.db .tx).buf0.ready.toNat + (s.db .tx).buf1.ready.toNat) :=
  ⟨by decide, ⟨_, rfl⟩, by decide⟩

/-- A step that publishes the writer's batch. -/
theorem witness_RingInvariantIsKept :
    let s := next (.command .b ⟨0x4800, 10, 0⟩) ringMid
    s.cfg.wf = true ∧ ringWf s.cfg.ringCap s.cfg.ringBatch s.ring = true ∧ (∃ t, step s = .next t) ∧
    s.cfg.ringBatch ≤ s.cfg.ringCap :=
  ⟨by decide, by decide, ⟨_, rfl⟩, by decide⟩

theorem witness_EveryStepKeepsTheStateWellFormed :
    let s := next .txTick midRun
    s.wf = true ∧ ∃ t, step s = .next t :=
  ⟨by decide, ⟨_, rfl⟩⟩

theorem witness_NoStepFaults : midRun.wf = true ∧ ringMid.wf = true := by decide

/-- A DB_PUT to a full buffer. -/
theorem witness_RejectionsChangeNoState :
    let s := { fifo with dbTx := ⟨buf [0, 1, 2, 3, 4, 5, 6, 7] false, Buf.empty 0, false, false, true⟩ }
    ∃ t, exec (.dbPut .tx 8) s = .next t ∧ answered s.active s t ⟨.erange, 8⟩ ∧
      5 ≤ Status.erange.code.toNat :=
  ⟨_, rfl, rfl, by decide⟩

theorem witness_ResponsesAreThoseOfTheTable :
    (∃ t, exec .nop fifo = .next t) ∧ (∃ t, exec .fifoPop fifo = .next t) ∧
    ∃ t, exec .rxPoll { fifo with detQ := [448], fifoFull := true } = .next t :=
  ⟨⟨_, rfl⟩, ⟨_, rfl⟩, ⟨_, rfl⟩⟩

theorem witness_ThePortsAreSymmetric : Event.proceed .a ≠ .powerOn := by decide

theorem witness_CountersAreReadOnlyByCsrRead :
    (∀ csr : BitVec 8, Instr.pdmStep 0 ≠ .csrRead csr) ∧
    (∀ (p : PortId) (t : Txn), Event.txTick ≠ .command p t) ∧ ∀ p : PortId, Event.txTick ≠ .proceed p := by
  simp

theorem witness_OnlyTheirOwnCommandsWriteFormatAndModulator :
    (∃ t, step (next .tick fifo) = .next t) ∧ (∃ t, exec (.dbBegin .tx) fifo = .next t) ∧
    (∀ a b : Word, Instr.dbBegin .tx ≠ .setFormat a b) ∧ ∀ x : Word, Instr.dbBegin .tx ≠ .pdmStep x :=
  ⟨⟨_, rfl⟩, ⟨_, rfl⟩, by simp, by simp⟩

/-- A capture, which runs no command and is no step of the generator. -/
theorem witness_OnlyTheirOwnCommandsWriteFormatAndModulator_events :
    Event.capture 7 ≠ .powerOn ∧ (∃ t, runEvent (.capture 7) fifo = .next t) ∧
    (∀ (p : PortId) (x : Txn), ¬ runsTxn (.capture 7) fifo p x) ∧
    Event.capture 7 ≠ .genStart ∧ Event.capture 7 ≠ .genEnd :=
  ⟨by decide, ⟨_, rfl⟩, by simp [runsTxn], by decide, by decide⟩

/-- A DB_PUT into the other instance, and a code taken from the ready buffer itself. -/
theorem witness_ReadyBuffersAreNotWritten :
    Event.txTick ≠ .powerOn ∧
    dbWf midRun.cfg.dbCap (elementOk .tx midRun.fmtDepth) (midRun.db .tx) = true ∧
    ((midRun.db .tx).buf false).ready = true ∧ ∃ t, runEvent .txTick midRun = .next t :=
  ⟨by decide, by decide, by decide, ⟨_, rfl⟩⟩

theorem witness_GeneratorKeepsItsContract :
    (Event.txTick ≠ .powerOn ∧ ∃ t, runEvent .txTick midRun = .next t) ∧
    { fifo with genState := .low }.genState = .low ∧
    (fifo.pinOut = decide (fifo.genState = .idle) ∧ ∃ t, step (next .genStart fifo) = .next t) :=
  ⟨⟨by decide, ⟨_, rfl⟩⟩, rfl, rfl, ⟨_, rfl⟩⟩

theorem witness_RingIsAQueue :
    (ringMid.cfg.wf = true ∧ ringMid.cfg.channelMode = .ring ∧
      ringWf ringMid.cfg.ringCap ringMid.cfg.ringBatch ringMid.ring = true ∧
      ringMid.ring.unread = 7 :: [8] ∧ ringMid.ring.batch = [9]) ∧
    (ringWf ring.cfg.ringCap ring.cfg.ringBatch ring.ring = true ∧ ring.ring.unread = []) := by decide

theorem witness_DoubleBufferIsAQueueOfUnits_put_and_commit :
    dbWf midRun.cfg.dbCap (elementOk .rx midRun.fmtDepth) (midRun.db .rx) = true ∧
    (∃ t, exec (.dbPut .rx 5) midRun = .next t ∧ answered midRun.active midRun t ⟨.ok, 2⟩) ∧
    ∃ t, exec (.dbCommit .rx) midRun = .next t ∧ answered midRun.active midRun t ⟨.ok, 1⟩ :=
  ⟨by decide, ⟨_, rfl, rfl⟩, ⟨_, rfl, rfl⟩⟩

theorem witness_DoubleBufferIsAQueueOfUnits_get_and_tick :
    (midRun.dbRx.unread = [] ∧ midRun.dbTx.unread = 600 :: [1023] ∧ midRun.txTickEnabled = true) ∧
    (let s := { fifo with
      tickPending := true, dbRx := ⟨buf [5, 6] true, buf [7] true, false, false, false⟩ };
      dbWf s.cfg.dbCap (elementOk .rx s.fmtDepth) s.dbRx = true ∧ s.dbRx.unread = 5 :: [6, 7] ∧
        s.dbTx.unread = [] ∧ s.txTickEnabled = true) := by decide

theorem witness_UnusedOperandsAreIgnored :
    (0x10 : BitVec 8) ∉ ([0x02, 0x12] : List (BitVec 8)) ∧
    (0x29 : BitVec 8) ∉
      ([0x02, 0x10, 0x11, 0x12, 0x13, 0x20, 0x28, 0x31, 0x40, 0x48] : List (BitVec 8)) := by decide

theorem witness_AtMostOneRowSelectsAWord :
    decode ⟨0x3001, 0, 0⟩ = .ok (.dbBegin .rx) ∧
    ∃ r ∈ rows, (0x3001 : BitVec 16) &&& r.mask = r.matchBits := by decide

theorem witness_DecodeInvertsEncode : decode ⟨0x3101, 64, 99⟩ = .ok (.dbPut .rx 64) := by decide

end Sys2Proof.Tests
end

section
/-! ## Who writes the build, the format, the modulator and the generator's output (R12, R23, R25, R31)

The parts of the state that have one writer at most are collected in one record, `State.owned`; every
operation and command is then described by one equation about that record. -/

namespace Sys2Proof.Machine

/-! ### The parts with one writer -/

/-- The build, the format, the modulator, and of the generator the pin, the phase, the current width
and the pulse record. GEN_Q, which GEN_PUSH and TX_TICK also write, is not among them. -/
structure Owned where
  cfg : Config
  format : Depth × Rate
  pdm : Pdm
  generator : Bool × GenState × Word × List Word

/-- The parts of a state with one writer at most. -/
def State.owned (s : State) : Owned where
  cfg := s.cfg
  format := (s.fmtDepth, s.fmtRate)
  pdm := s.pdm
  generator := (s.pinOut, s.genState, s.genCur, s.pulses)

theorem State.format_eq_iff {s t : State} :
    t.owned.format = s.owned.format ↔ t.fmtDepth = s.fmtDepth ∧ t.fmtRate = s.fmtRate := by
  simp [State.owned]

theorem State.generator_eq_iff {s t : State} :
    t.owned.generator = s.owned.generator ↔
      t.pinOut = s.pinOut ∧ t.genState = s.genState ∧ t.genCur = s.genCur ∧ t.pulses = s.pulses := by
  simp [State.owned]

/-! ### The shared operations write none of them -/

@[simp] theorem State.setPort_owned (s : State) (p : PortId) (x : PortState) :
    (s.setPort p x).owned = s.owned := by cases p <;> rfl

@[simp] theorem State.respond_owned (s : State) (st : Status) (v : Word) :
    (s.respond st v).owned = s.owned := State.setPort_owned ..

@[simp] theorem State.holdForward_owned (s : State) (v : Word) :
    (s.holdForward v).owned = s.owned := State.setPort_owned ..

@[simp] theorem State.present_owned (s : State) (p : PortId) (t : Txn) :
    (s.present p t).owned = s.owned := State.setPort_owned ..

@[simp] theorem State.setDb_owned (s : State) (i : Inst) (d : DBuf) :
    (s.setDb i d).owned = s.owned := by cases i <;> rfl

@[simp] theorem State.count_owned (s : State) (c : CounterId) : (s.count c).owned = s.owned := rfl

@[simp] theorem State.genEnqueue_owned (s : State) (w : Word) :
    (s.genEnqueue w).owned = s.owned := rfl

@[simp] theorem State.withFifo_owned (s : State) (full : Bool) (w : Word) :
    { s with fifoFull := full, fifoWord := w }.owned = s.owned := rfl

@[simp] theorem State.withRing_owned (s : State) (r : Ring) :
    { s with ring := r }.owned = s.owned := rfl

@[simp] theorem State.withDetQ_owned (s : State) (q : List Word) :
    { s with detQ := q }.owned = s.owned := rfl

@[simp] theorem State.withActive_owned (s : State) (p : PortId) :
    { s with active := p }.owned = s.owned := rfl

theorem State.ringAppend_owned {s s' : State} {v : Word} {appended : Bool}
    (h : s.ringAppend v = .ok (appended, s')) : s'.owned = s.owned := by
  rw [State.ringAppend_eq] at h
  split at h
  · cases h; rfl
  · split at h
    · cases h; rfl
    · cases h

/-! ### Outcomes that keep them -/

/-- If the outcome is a next state, it keeps every part of `s` that has one writer. -/
def KeepsOwned (s : State) (r : Result) : Prop := ∀ t, r = .next t → t.owned = s.owned

@[simp] theorem keepsOwned_next {s t : State} : KeepsOwned s (.next t) ↔ t.owned = s.owned := by
  simp [KeepsOwned]

@[simp] theorem keepsOwned_fault (s : State) (e : Fault) : KeepsOwned s (.fault e) := by
  simp [KeepsOwned]

theorem keepsOwned_orFault {α : Type} {s : State} {x : Except Fault α} {f : α → Result}
    (h : ∀ v, x = .ok v → KeepsOwned s (f v)) : KeepsOwned s (orFault x f) := by
  cases x with
  | ok v => exact h v rfl
  | error e => exact keepsOwned_fault s e

/-! ### The commands that write none of them -/

theorem execNop_keepsOwned (s : State) : KeepsOwned s (execNop s) := by
  simp [execNop]

theorem execStatsClear_keepsOwned (s : State) : KeepsOwned s (execStatsClear s) := by
  simp only [execStatsClear, keepsOwned_next, State.respond_owned]
  rfl

theorem execCsrRead_keepsOwned (csr : BitVec 8) (s : State) : KeepsOwned s (execCsrRead csr s) := by
  unfold execCsrRead
  split <;> simp

theorem execPpmEncode_keepsOwned (x : Word) (s : State) : KeepsOwned s (execPpmEncode x s) := by
  unfold execPpmEncode
  split <;> simp

theorem execPpmDecode_keepsOwned (c : Word) (s : State) : KeepsOwned s (execPpmDecode c s) := by
  unfold execPpmDecode
  split <;> simp

theorem execDownmix_keepsOwned (l r : Word) (s : State) : KeepsOwned s (execDownmix l r s) := by
  unfold execDownmix
  split <;> simp

theorem execGenPush_keepsOwned (w : Word) (s : State) : KeepsOwned s (execGenPush w s) := by
  unfold execGenPush
  split
  · simp
  · split <;> simp

theorem execDetPop_keepsOwned (s : State) : KeepsOwned s (execDetPop s) := by
  unfold execDetPop
  split <;> simp

theorem execRxCorrect_keepsOwned (m : Word) (s : State) : KeepsOwned s (execRxCorrect m s) := by
  unfold execRxCorrect
  dsimp only
  split <;> simp

theorem State.forward_keepsOwned (s : State) (c : Word) : KeepsOwned s (s.forward c) := by
  obtain ⟨-, -, h⟩ | ⟨-, -, h⟩ | ⟨-, -, -, h⟩ | ⟨-, -, -, h⟩ | ⟨-, -, -, h⟩ :=
    s.forward_cases c <;> simp [h]

theorem execRxPoll_keepsOwned (s : State) : KeepsOwned s (execRxPoll s) := by
  unfold execRxPoll
  split
  · simp
  · dsimp only
    split
    · exact State.forward_keepsOwned _ _
    · simp

theorem execDbBegin_keepsOwned (i : Inst) (s : State) : KeepsOwned s (execDbBegin i s) := by
  unfold execDbBegin
  dsimp only
  split
  · simp
  · split <;> simp

theorem execDbPut_keepsOwned (i : Inst) (x : Word) (s : State) :
    KeepsOwned s (execDbPut i x s) := by
  unfold execDbPut
  dsimp only
  split
  · simp
  · split
    · simp
    · split
      · simp
      · exact keepsOwned_orFault fun _ _ => by simp

theorem execDbCommit_keepsOwned (i : Inst) (s : State) : KeepsOwned s (execDbCommit i s) := by
  unfold execDbCommit
  dsimp only
  split
  · simp
  · split <;> simp

theorem execDbGet_keepsOwned (i : Inst) (s : State) : KeepsOwned s (execDbGet i s) := by
  have hrx (d : DBuf) : { s with dbRx := d }.owned = s.owned := rfl
  cases i with
  | tx => simp [execDbGet]
  | rx =>
    unfold execDbGet
    dsimp only
    split
    · simp
    · split
      · simp [hrx]
      · exact keepsOwned_orFault fun _ _ => by simp [hrx]

theorem execFifoPush_keepsOwned (w : Word) (s : State) : KeepsOwned s (execFifoPush w s) := by
  unfold execFifoPush
  split
  · simp
  · split <;> simp

theorem execFifoPop_keepsOwned (s : State) : KeepsOwned s (execFifoPop s) := by
  unfold execFifoPop
  split
  · simp
  · split <;> simp

theorem execRingAppend_keepsOwned (w : Word) (s : State) : KeepsOwned s (execRingAppend w s) := by
  unfold execRingAppend
  split
  · simp
  · refine keepsOwned_orFault fun ⟨appended, s'⟩ h => ?_
    have hs' := State.ringAppend_owned h
    cases appended <;> simp [hs']

theorem execRingFlush_keepsOwned (s : State) : KeepsOwned s (execRingFlush s) := by
  unfold execRingFlush
  split
  · simp
  · split <;> simp

theorem execRingPop_keepsOwned (s : State) : KeepsOwned s (execRingPop s) := by
  unfold execRingPop
  split
  · simp
  · split
    · simp
    · exact keepsOwned_orFault fun _ _ => by simp

/-! ### SET_FORMAT and PDM_STEP -/

/-- SET_FORMAT writes the format and no other part (R232). -/
theorem execSetFormat_owned {rate depth : Word} {s t : State}
    (h : execSetFormat rate depth s = .next t) :
    ∃ f, t.owned = { s.owned with format := f } := by
  unfold execSetFormat at h
  split at h <;> cases h
  case h_1 r d _ _ => exact ⟨(d, r), State.respond_owned ..⟩
  case h_2 => exact ⟨s.owned.format, State.respond_owned ..⟩

/-- PDM_STEP writes the modulator and no other part (R120). -/
theorem execPdmStep_owned {x : Word} {s t : State} (h : execPdmStep x s = .next t) :
    ∃ p, t.owned = { s.owned with pdm := p } := by
  unfold execPdmStep at h
  split at h
  · dsimp only at h
    split at h <;> cases h <;> exact ⟨_, State.respond_owned ..⟩
  · cases h
    exact ⟨s.pdm, State.respond_owned ..⟩

/-- All that a command can do to the parts with one writer. -/
theorem exec_owned_cases {i : Instr} {s t : State} (h : exec i s = .next t) :
    t.owned = s.owned ∨
    (∃ a b f, i = .setFormat a b ∧ t.owned = { s.owned with format := f }) ∨
    (∃ x p, i = .pdmStep x ∧ t.owned = { s.owned with pdm := p }) := by
  cases i with
  | setFormat a b =>
    obtain ⟨f, hf⟩ := execSetFormat_owned h
    exact .inr (.inl ⟨a, b, f, rfl, hf⟩)
  | pdmStep x =>
    obtain ⟨p, hp⟩ := execPdmStep_owned h
    exact .inr (.inr ⟨x, p, rfl, hp⟩)
  | nop => exact .inl (execNop_keepsOwned s t h)
  | csrRead csr => exact .inl (execCsrRead_keepsOwned csr s t h)
  | statsClear => exact .inl (execStatsClear_keepsOwned s t h)
  | ppmEncode x => exact .inl (execPpmEncode_keepsOwned x s t h)
  | ppmDecode c => exact .inl (execPpmDecode_keepsOwned c s t h)
  | downmix l r => exact .inl (execDownmix_keepsOwned l r s t h)
  | genPush w => exact .inl (execGenPush_keepsOwned w s t h)
  | detPop => exact .inl (execDetPop_keepsOwned s t h)
  | rxCorrect m => exact .inl (execRxCorrect_keepsOwned m s t h)
  | rxPoll => exact .inl (execRxPoll_keepsOwned s t h)
  | dbBegin j => exact .inl (execDbBegin_keepsOwned j s t h)
  | dbPut j x => exact .inl (execDbPut_keepsOwned j x s t h)
  | dbCommit j => exact .inl (execDbCommit_keepsOwned j s t h)
  | dbGet j => exact .inl (execDbGet_keepsOwned j s t h)
  | fifoPush w => exact .inl (execFifoPush_keepsOwned w s t h)
  | fifoPop => exact .inl (execFifoPop_keepsOwned s t h)
  | ringAppend w => exact .inl (execRingAppend_keepsOwned w s t h)
  | ringFlush => exact .inl (execRingFlush_keepsOwned s t h)
  | ringPop => exact .inl (execRingPop_keepsOwned s t h)

/-! ### The agents -/

theorem State.tick_owned (s : State) : s.tick.owned = s.owned := by
  unfold State.tick
  split <;> rfl

theorem State.capture_owned (s : State) (m : Word) : (s.capture m).owned = s.owned := by
  unfold State.capture
  dsimp only
  split <;> rfl

theorem State.forwardDone_owned (s : State) (p : PortId) (v : Word) :
    (s.forwardDone p v).owned = s.owned := by
  unfold State.forwardDone
  split
  · rfl
  · dsimp only
    rw [State.respond_owned, State.setPort_owned]
    rfl

theorem takeTick_keepsOwned (s : State) : KeepsOwned s (takeTick s) := by
  obtain ⟨_, _, -, -, -, h⟩ | ⟨_, -, -, -, h⟩ | ⟨-, -, h⟩ | ⟨-, h⟩ := takeTick_cases s <;>
    simp only [h, keepsOwned_next, keepsOwned_fault] <;> rfl

/-- The generator's start step writes the generator and no other part (R140). -/
theorem State.genStart_owned (s : State) :
    ∃ g, s.genStart.owned = { s.owned with generator := g } := by
  unfold State.genStart
  split <;> exact ⟨_, rfl⟩

/-- The generator's end step writes the generator and no other part (R142). -/
theorem State.genEnd_owned (s : State) :
    ∃ g, s.genEnd.owned = { s.owned with generator := g } := by
  unfold State.genEnd
  split <;> exact ⟨_, rfl⟩

/-- A port's step keeps every part with one writer, unless it executes its command in progress. -/
theorem portStep_keepsOwned_or_execs {p : PortId} {s t : State} (h : portStep p s = .next t) :
    t.owned = s.owned ∨
    ∃ x i, s.txTickEnabled = false ∧ (s.port p).hold = .none ∧ (s.port p).cmd = some x ∧
      decode x = .ok i ∧ exec i { s with active := p } = .next t := by
  obtain ⟨-, hp⟩ | ⟨v, -, -, hp⟩ | ⟨x, i, htick, hhold, hcmd, hdec, hp⟩ | ⟨x, r, -, -, -, -, hp⟩ |
    ⟨-, -, -, hp⟩ := portStep_cases p s <;> rw [hp] at h
  case inr.inr.inl => exact .inr ⟨x, i, htick, hhold, hcmd, hdec, h⟩
  all_goals cases h; left
  case inl | inr.inr.inr.inr => rfl
  case inr.inl => exact s.forwardDone_owned p v
  case inr.inr.inr.inl => rw [State.respond_owned, State.withActive_owned]

/-- An event that is neither a power-on nor a step of the generator keeps every part with one writer,
unless it makes a port run a command word (R254). -/
theorem runEvent_keepsOwned_or_execs {e : Event} {s t : State} (hpow : e ≠ .powerOn)
    (hstart : e ≠ .genStart) (hend : e ≠ .genEnd) (h : runEvent e s = .next t) :
    t.owned = s.owned ∨
    ∃ p x i s', runsTxn e s p x ∧ decode x = .ok i ∧ s'.owned = s.owned ∧ exec i s' = .next t := by
  cases e with
  | command p y =>
    simp only [runEvent] at h
    split at h
    case isTrue hfree =>
      obtain ⟨hhold, hcmd⟩ := (s.portFree_iff p).1 hfree
      obtain hkept | ⟨x, i, htick, -, hx, hdec, hexec⟩ := portStep_keepsOwned_or_execs h
      · exact .inl (hkept.trans (s.present_owned p y))
      · obtain rfl : y = x := by simpa using hx
        have hruns : runsTxn (.command p y) s p y :=
          ⟨by simpa using htick, hhold, .inl ⟨rfl, hcmd⟩⟩
        exact .inr ⟨p, y, i, _, hruns, hdec,
          (State.withActive_owned _ p).trans (s.present_owned p y), hexec⟩
    case isFalse => cases h; exact .inl rfl
  | proceed p =>
    obtain hkept | ⟨x, i, htick, hhold, hcmd, hdec, hexec⟩ := portStep_keepsOwned_or_execs h
    · exact .inl hkept
    · exact .inr ⟨p, x, i, _, ⟨htick, hhold, .inr ⟨rfl, hcmd⟩⟩, hdec, s.withActive_owned p, hexec⟩
  | tick => cases h; exact .inl s.tick_owned
  | txTick =>
    simp only [runEvent] at h
    split at h
    · exact .inl (takeTick_keepsOwned s t h)
    · cases h; exact .inl rfl
  | capture m => cases h; exact .inl (s.capture_owned m)
  | genStart => exact absurd rfl hstart
  | genEnd => exact absurd rfl hend
  | powerOn => exact absurd rfl hpow

/-- All that an event other than a power-on can do to the parts with one writer: nothing, or the
format by a SET_FORMAT it makes a port run, or the modulator by such a PDM_STEP, or the generator's
parts by a step of the generator. -/
theorem runEvent_owned_cases {e : Event} {s t : State} (hpow : e ≠ .powerOn)
    (h : runEvent e s = .next t) :
    t.owned = s.owned ∨
    (∃ p x a b f, runsTxn e s p x ∧ decode x = .ok (.setFormat a b) ∧
      t.owned = { s.owned with format := f }) ∨
    (∃ p x w m, runsTxn e s p x ∧ decode x = .ok (.pdmStep w) ∧
      t.owned = { s.owned with pdm := m }) ∨
    ((e = .genStart ∨ e = .genEnd) ∧ ∃ g, t.owned = { s.owned with generator := g }) := by
  by_cases hstart : e = .genStart
  · subst hstart; cases h
    exact .inr (.inr (.inr ⟨.inl rfl, s.genStart_owned⟩))
  by_cases hend : e = .genEnd
  · subst hend; cases h
    exact .inr (.inr (.inr ⟨.inr rfl, s.genEnd_owned⟩))
  obtain hkept | ⟨p, x, i, s', hruns, hdec, hs', hexec⟩ :=
    runEvent_keepsOwned_or_execs hpow hstart hend h
  · exact .inl hkept
  rw [← hs']
  obtain hkept | ⟨a, b, f, rfl, hf⟩ | ⟨w, m, rfl, hm⟩ := exec_owned_cases hexec
  · exact .inl hkept
  · exact .inr (.inl ⟨p, x, a, b, f, hruns, hdec, hf⟩)
  · exact .inr (.inr (.inl ⟨p, x, w, m, hruns, hdec, hm⟩))

/-! ### The build -/

/-- No event changes the build, a power-on included (R12, R280). -/
theorem runEvent_cfg {e : Event} {s t : State} (h : runEvent e s = .next t) : t.cfg = s.cfg := by
  by_cases hpow : e = .powerOn
  · subst hpow; cases h; rfl
  obtain ho | ⟨_, _, _, _, _, -, -, ho⟩ | ⟨_, _, _, _, -, -, ho⟩ | ⟨-, _, ho⟩ :=
    runEvent_owned_cases hpow h <;> exact congrArg Owned.cfg ho

theorem step_cfg {s t : State} (h : step s = .next t) : t.cfg = s.cfg := by
  obtain ⟨e, rest, -, hstep⟩ | ⟨-, hstep⟩ := takeStep_cases s
  · have hkept := runEvent_cfg (hstep.symm.trans h)
    exact hkept
  · have hkept := runEvent_cfg (hstep.symm.trans h)
    exact hkept

/-! ### The obligation -/

/-- Of a command other than SET_FORMAT and PDM_STEP nothing here changes; of those two, only their
own part. -/
theorem exec_writes_only_own {i : Instr} {s t : State} (h : exec i s = .next t) :
    ((∀ a b, i ≠ .setFormat a b) → t.owned.format = s.owned.format) ∧
    ((∀ x, i ≠ .pdmStep x) → t.owned.pdm = s.owned.pdm) ∧
    t.owned.generator = s.owned.generator := by
  obtain ho | ⟨a, b, f, rfl, ho⟩ | ⟨x, p, rfl, ho⟩ := exec_owned_cases h <;> rw [ho]
  · exact ⟨fun _ => rfl, fun _ => rfl, rfl⟩
  · exact ⟨fun hne => absurd rfl (hne a b), fun _ => rfl, rfl⟩
  · exact ⟨fun _ => rfl, fun hne => absurd rfl (hne x), rfl⟩

theorem runEvent_writes_only_own {e : Event} {s t : State} (hpow : e ≠ .powerOn)
    (h : runEvent e s = .next t) :
    ((∀ p x a b, runsTxn e s p x → decode x ≠ .ok (.setFormat a b)) →
      t.owned.format = s.owned.format) ∧
    ((∀ p x w, runsTxn e s p x → decode x ≠ .ok (.pdmStep w)) → t.owned.pdm = s.owned.pdm) ∧
    (e ≠ .genStart → e ≠ .genEnd → t.owned.generator = s.owned.generator) := by
  obtain ho | ⟨p, x, a, b, f, hruns, hdec, ho⟩ | ⟨p, x, w, m, hruns, hdec, ho⟩ | ⟨hgen, g, ho⟩ :=
    runEvent_owned_cases hpow h <;> rw [ho]
  · exact ⟨fun _ => rfl, fun _ => rfl, fun _ _ => rfl⟩
  · exact ⟨fun hne => absurd hdec (hne p x a b hruns), fun _ => rfl, fun _ _ => rfl⟩
  · exact ⟨fun _ => rfl, fun hne => absurd hdec (hne p x w hruns), fun _ _ => rfl⟩
  · exact ⟨fun _ => rfl, fun _ => rfl, fun hstart hend => (hgen.elim hstart hend).elim⟩

/-- Settles O50: the build by `step_cfg`, the rest by what a command and an event can do to the parts
of the state that have one writer. -/
theorem onlyTheirOwnCommandsWriteFormatAndModulator :
    Obligations.OnlyTheirOwnCommandsWriteFormatAndModulator := by
  refine ⟨fun s t => step_cfg, fun i s t h => ?_, fun e s t hpow h => ?_⟩
  · obtain ⟨hformat, hpdm, hgen⟩ := exec_writes_only_own h
    exact ⟨fun hne => State.format_eq_iff.1 (hformat hne), hpdm, State.generator_eq_iff.1 hgen⟩
  · obtain ⟨hformat, hpdm, hgen⟩ := runEvent_writes_only_own hpow h
    exact ⟨fun hne => State.format_eq_iff.1 (hformat hne), hpdm,
      fun hstart hend => State.generator_eq_iff.1 (hgen hstart hend)⟩

end Sys2Proof.Machine
end

section
/-! ## The double buffers: who owns a buffer, and what is published (R28, R80, R162, R184, R186)

The parts of the invariant of one double buffer by name, what leaves both of them alone, and the two
claims: a ready buffer is not written, and a double buffer is a queue of units. -/

namespace Sys2Proof.Machine

/-! ### The invariant of one double buffer (R28) -/

theorem bufWf_iff {cap : Nat} {p : Word → Bool} {b : Buf} :
    bufWf cap p b = true ↔
      b.payload.fits cap = true ∧ b.payload.holdsBelow b.size p = true ∧ b.pos ≤ b.size ∧
        b.size ≤ cap ∧ (b.ready = false → b.pos = 0) ∧ (b.ready = true → b.pos < b.size) := by
  cases h : b.ready <;> simp [bufWf, h, and_assoc]

theorem dbWf_buf {cap : Nat} {p : Word → Bool} {d : DBuf} (h : dbWf cap p d = true) (b : Half) :
    bufWf cap p (d.buf b) = true := by
  simp only [dbWf, Bool.and_eq_true] at h
  obtain ⟨⟨⟨⟨⟨h0, h1⟩, -⟩, -⟩, -⟩, -⟩ := h
  cases b
  · exact h0
  · exact h1

/-- R28 (4): while a unit is open its buffer is not ready. -/
theorem dbWf_open {cap : Nat} {p : Word → Bool} {d : DBuf} (h : dbWf cap p d = true)
    (ho : d.isOpen = true) : (d.buf d.w).ready = false := by
  simp only [dbWf, Bool.and_eq_true] at h
  obtain ⟨⟨⟨⟨-, hopen⟩, -⟩, -⟩, -⟩ := h
  simpa [ho] using hopen

theorem dbWf_order {cap : Nat} {p : Word → Bool} {d : DBuf} (h : dbWf cap p d = true) :
    orderWf d = true := by
  simp only [dbWf, Bool.and_eq_true] at h
  exact h.2

/-! ### What leaves both double buffers alone -/

/-- If the outcome is a next state, both double buffers are those of `s`. -/
def KeepsDb (s : State) (r : Result) : Prop := ∀ t, r = .next t → ∀ i, t.db i = s.db i

@[simp] theorem keepsDb_next {s t : State} : KeepsDb s (.next t) ↔ ∀ i, t.db i = s.db i := by
  simp [KeepsDb]

@[simp] theorem keepsDb_fault (s : State) (e : Fault) : KeepsDb s (.fault e) := by
  simp [KeepsDb]

@[simp] theorem State.withDetQ_db (s : State) (q : List Word) (i : Inst) :
    { s with detQ := q }.db i = s.db i := by cases i <;> rfl

@[simp] theorem State.withFifo_db (s : State) (full : Bool) (w : Word) (i : Inst) :
    { s with fifoFull := full, fifoWord := w }.db i = s.db i := by cases i <;> rfl

@[simp] theorem State.withRing_db (s : State) (r : Ring) (i : Inst) :
    { s with ring := r }.db i = s.db i := by cases i <;> rfl

@[simp] theorem State.withPdm_db (s : State) (p : Pdm) (i : Inst) :
    { s with pdm := p }.db i = s.db i := by cases i <;> rfl

@[simp] theorem State.withCounters_db (s : State) (k : Counters) (i : Inst) :
    { s with counters := k }.db i = s.db i := by cases i <;> rfl

@[simp] theorem State.withActive_db (s : State) (p : PortId) (i : Inst) :
    { s with active := p }.db i = s.db i := by cases i <;> rfl

theorem State.ringAppend_db {s s' : State} {v : Word} {appended : Bool}
    (h : s.ringAppend v = .ok (appended, s')) (i : Inst) : s'.db i = s.db i := by
  rw [State.ringAppend_eq] at h
  split at h
  · cases h; simp
  · split at h <;> cases h
    simp

theorem State.forward_keepsDb (s : State) (c : Word) : KeepsDb s (s.forward c) := by
  obtain ⟨-, -, h⟩ | ⟨-, -, h⟩ | ⟨-, -, -, h⟩ | ⟨-, -, -, h⟩ | ⟨-, -, -, h⟩ :=
    s.forward_cases c <;> simp [h]

theorem State.forwardDone_db (s : State) (p : PortId) (v : Word) (i : Inst) :
    (s.forwardDone p v).db i = s.db i := by
  unfold State.forwardDone
  split
  · rfl
  · dsimp only
    rw [State.respond_db, State.setPort_db]
    cases i <;> rfl

theorem State.tick_db (s : State) (i : Inst) : s.tick.db i = s.db i := by
  unfold State.tick
  split
  · simp
  · cases i <;> rfl

theorem State.capture_db (s : State) (m : Word) (i : Inst) : (s.capture m).db i = s.db i := by
  unfold State.capture
  dsimp only
  split
  · simpa using (s.count .detCaptures).withDetQ_db (s.detQ ++ [m]) i
  · simp

theorem State.genStart_db (s : State) (i : Inst) : s.genStart.db i = s.db i := by
  unfold State.genStart
  split <;> cases i <;> rfl

theorem State.genEnd_db (s : State) (i : Inst) : s.genEnd.db i = s.db i := by
  unfold State.genEnd
  split <;> cases i <;> rfl

/-- The commands whose rule writes a double buffer: the four of 44_dbuf.md, and SET_FORMAT, which
resets both (R232). -/
def writesDb : Instr → Bool
  | .setFormat _ _ | .dbBegin _ | .dbPut _ _ | .dbCommit _ | .dbGet _ => true
  | _ => false

/-- Every other command leaves both double buffers alone. -/
theorem exec_keepsDb {i : Instr} (hi : writesDb i = false) (s : State) : KeepsDb s (exec i s) := by
  cases i with
  | setFormat | dbBegin | dbPut | dbCommit | dbGet => cases hi
  | nop => simp [exec, execNop]
  | statsClear => simp [exec, execStatsClear]
  | csrRead csr =>
    simp only [exec, execCsrRead]
    split <;> simp
  | ppmEncode x =>
    simp only [exec, execPpmEncode]
    split <;> simp
  | ppmDecode c =>
    simp only [exec, execPpmDecode]
    split <;> simp
  | downmix l r =>
    simp only [exec, execDownmix]
    split <;> simp
  | pdmStep x =>
    simp only [exec, execPdmStep]
    split
    · split <;> simp
    · simp
  | genPush w =>
    simp only [exec, execGenPush]
    split
    · simp
    · split <;> simp
  | detPop =>
    simp only [exec, execDetPop]
    split <;> simp
  | rxCorrect m =>
    simp only [exec, execRxCorrect]
    split <;> simp
  | rxPoll =>
    simp only [exec, execRxPoll]
    split
    · simp
    · split
      · intro t h i
        simpa using State.forward_keepsDb _ _ t h i
      · simp
  | fifoPush w =>
    simp only [exec, execFifoPush]
    split
    · simp
    · split <;> simp
  | fifoPop =>
    simp only [exec, execFifoPop]
    split
    · simp
    · split <;> simp
  | ringAppend w =>
    simp only [exec, execRingAppend]
    split
    · simp
    · intro t h i
      obtain ⟨⟨appended, s'⟩, hring, ht⟩ := orFault_eq_next.1 h
      have hs' := State.ringAppend_db hring i
      split at ht <;> cases ht <;> simpa using hs'
  | ringFlush =>
    simp only [exec, execRingFlush]
    split
    · simp
    · split <;> simp
  | ringPop =>
    simp only [exec, execRingPop]
    split
    · simp
    · split
      · simp
      · intro t h i
        obtain ⟨⟨v, r'⟩, -, ht⟩ := orFault_eq_next.1 h
        cases ht
        simp

/-! ### A ready buffer is not written (R80, R186) -/

/-- From `d` to `d'`, the payload of each ready buffer is kept, and its size while it stays ready. -/
def DBuf.KeepsReady (d d' : DBuf) : Prop :=
  ∀ b : Half, (d.buf b).ready = true →
    (d'.buf b).payload = (d.buf b).payload ∧
    ((d'.buf b).ready = true → (d'.buf b).size = (d.buf b).size)

theorem DBuf.keepsReady_of_buf_eq {d d' : DBuf} (h : ∀ b, d'.buf b = d.buf b) :
    d.KeepsReady d' := fun b _ => by simp [h]

@[simp] theorem DBuf.keepsReady_refl (d : DBuf) : d.KeepsReady d :=
  DBuf.keepsReady_of_buf_eq fun _ => rfl

/-- Only the payload and the size of a replaced buffer matter. -/
theorem DBuf.keepsReady_setBuf {d : DBuf} {b : Half} {x : Buf}
    (hp : x.payload = (d.buf b).payload) (hs : x.size = (d.buf b).size) :
    d.KeepsReady (d.setBuf b x) := fun c _ => by
  by_cases hc : c = b
  · simp [hc, hp, hs]
  · simp [hc]

/-- A buffer that is not ready may be replaced by any other. -/
theorem DBuf.keepsReady_setBuf_of_not_ready {d : DBuf} {b : Half} {x : Buf}
    (hb : (d.buf b).ready = false) : d.KeepsReady (d.setBuf b x) := fun c hc => by
  have hne : c ≠ b := by
    rintro rfl
    simp [hb] at hc
  simp [hne]

theorem DBuf.keepsReady_release (d : DBuf) : d.KeepsReady d.release := fun b _ => by
  rw [DBuf.release_buf]
  split <;> simp_all

theorem DBuf.keepsReady_reset (d : DBuf) : d.KeepsReady d.reset := fun b _ => by
  simp [DBuf.reset_buf]

theorem DBuf.keepsReady_take {d d' : DBuf} {cap : Nat} {v : Word}
    (h : d.take cap = .ok (v, d')) : d.KeepsReady d' := by
  rw [DBuf.take_eq] at h
  split at h <;> cases h
  split
  · exact d.keepsReady_release
  · exact DBuf.keepsReady_setBuf rfl rfl

/-- Replacing one double buffer leaves the other alone. -/
theorem State.setDb_keepsReady {s : State} {i j : Inst} {d : DBuf}
    (h : j = i → (s.db i).KeepsReady d) : (s.db j).KeepsReady ((s.setDb i d).db j) := by
  rw [State.setDb_db]
  split
  case isTrue hj => exact hj ▸ h hj
  case isFalse => exact DBuf.keepsReady_refl _

theorem execSetFormat_keepsReady {rate depth : Word} {s t : State}
    (h : execSetFormat rate depth s = .next t) (j : Inst) : (s.db j).KeepsReady (t.db j) := by
  unfold execSetFormat at h
  split at h <;> cases h <;> rw [State.respond_db]
  · cases j <;> exact DBuf.keepsReady_reset _
  · exact DBuf.keepsReady_refl _

theorem execDbBegin_keepsReady {i : Inst} {s t : State} (h : execDbBegin i s = .next t)
    (j : Inst) : (s.db j).KeepsReady (t.db j) := by
  simp only [execDbBegin] at h
  split at h
  · cases h; simp
  · split at h <;> cases h
    · simp
    · rw [State.respond_db]
      exact State.setDb_keepsReady fun _ => DBuf.keepsReady_of_buf_eq fun _ => rfl

/-- The buffer a DB_PUT writes is that of the open unit, which is not ready (R28 (4), R181). -/
theorem execDbPut_keepsReady {i j : Inst} {x : Word} {s t : State}
    (hopen : (s.db j).isOpen = true → ((s.db j).buf (s.db j).w).ready = false)
    (h : execDbPut i x s = .next t) : (s.db j).KeepsReady (t.db j) := by
  simp only [execDbPut] at h
  split at h
  · cases h; simp
  case isFalse ho =>
  split at h
  · cases h; simp
  split at h
  · cases h; simp
  obtain ⟨m, -, ht⟩ := orFault_eq_next.1 h
  cases ht
  rw [State.respond_db]
  refine State.setDb_keepsReady fun hj => DBuf.keepsReady_setBuf_of_not_ready ?_
  subst hj
  exact hopen (by simpa using ho)

theorem execDbCommit_keepsReady {i : Inst} {s t : State} (h : execDbCommit i s = .next t)
    (j : Inst) : (s.db j).KeepsReady (t.db j) := by
  simp only [execDbCommit] at h
  split at h
  · cases h; simp
  split at h <;> cases h <;> rw [State.respond_db]
  · exact State.setDb_keepsReady fun _ => DBuf.keepsReady_of_buf_eq fun _ => rfl
  · exact State.setDb_keepsReady fun _ =>
      DBuf.keepsReady_setBuf (d := s.db i) (b := (s.db i).w) rfl rfl

theorem execDbGet_keepsReady {i : Inst} {s t : State} (h : execDbGet i s = .next t)
    (j : Inst) : (s.db j).KeepsReady (t.db j) := by
  have hrx {d : DBuf} (hd : s.dbRx.KeepsReady d) : (s.db j).KeepsReady ({ s with dbRx := d }.db j) :=
    State.setDb_keepsReady (i := .rx) fun _ => hd
  cases i with
  | tx => cases h; simp
  | rx =>
    simp only [execDbGet] at h
    split at h
    · cases h; simp
    split at h
    · cases h
      simpa using hrx s.dbRx.keepsReady_release
    · obtain ⟨⟨v, d⟩, htake, ht⟩ := orFault_eq_next.1 h
      cases ht
      simpa using hrx (DBuf.keepsReady_take htake)

theorem exec_keepsReady {i : Instr} {j : Inst} {s t : State}
    (hopen : (s.db j).isOpen = true → ((s.db j).buf (s.db j).w).ready = false)
    (h : exec i s = .next t) : (s.db j).KeepsReady (t.db j) := by
  cases hi : writesDb i with
  | false =>
    rw [exec_keepsDb hi s t h j]
    exact DBuf.keepsReady_refl _
  | true =>
    cases i with
    | setFormat => exact execSetFormat_keepsReady h j
    | dbBegin => exact execDbBegin_keepsReady h j
    | dbPut => exact execDbPut_keepsReady hopen h
    | dbCommit => exact execDbCommit_keepsReady h j
    | dbGet => exact execDbGet_keepsReady h j
    | _ => cases hi

theorem takeTick_keepsReady {s t : State} (h : takeTick s = .next t) (j : Inst) :
    (s.db j).KeepsReady (t.db j) := by
  have htx {d : DBuf} (hd : s.dbTx.KeepsReady d) :
      (s.db j).KeepsReady ({ s with tickPending := false, dbTx := d }.db j) := by
    cases j
    · exact hd
    · exact DBuf.keepsReady_refl _
  obtain ⟨c, d, -, -, htake, hr⟩ | ⟨e, -, -, -, hr⟩ | ⟨-, -, hr⟩ | ⟨-, hr⟩ := takeTick_cases s <;>
    rw [hr] at h <;> cases h <;> rw [State.count_db, State.genEnqueue_db]
  · exact htx (DBuf.keepsReady_take htake)
  · exact htx s.dbTx.keepsReady_release
  · exact htx s.dbTx.keepsReady_refl

theorem portStep_keepsReady {p : PortId} {j : Inst} {s t : State}
    (hopen : (s.db j).isOpen = true → ((s.db j).buf (s.db j).w).ready = false)
    (h : portStep p s = .next t) : (s.db j).KeepsReady (t.db j) := by
  obtain ⟨-, hp⟩ | ⟨v, -, -, hp⟩ | ⟨x, i, -, -, -, -, hp⟩ | ⟨x, r, -, -, -, -, hp⟩ | ⟨-, -, -, hp⟩ :=
    portStep_cases p s <;> rw [hp] at h
  case inr.inr.inl =>
    rw [← s.withActive_db p] at hopen ⊢
    exact exec_keepsReady hopen h
  all_goals cases h; simp [State.forwardDone_db]

/-- No event but a power-on writes the payload of a ready buffer, or its size while it stays ready:
the producer writes its open unit only, whose buffer is not ready. -/
theorem runEvent_keepsReady {e : Event} {j : Inst} {s t : State} (hpow : e ≠ .powerOn)
    (hopen : (s.db j).isOpen = true → ((s.db j).buf (s.db j).w).ready = false)
    (h : runEvent e s = .next t) : (s.db j).KeepsReady (t.db j) := by
  cases e with
  | command p x =>
    simp only [runEvent] at h
    split at h
    · rw [← s.present_db p x] at hopen ⊢
      exact portStep_keepsReady hopen h
    · cases h; simp
  | proceed p => exact portStep_keepsReady hopen h
  | tick => cases h; simp [State.tick_db]
  | txTick =>
    simp only [runEvent] at h
    split at h
    · exact takeTick_keepsReady h j
    · cases h; simp
  | genStart => cases h; simp [State.genStart_db]
  | genEnd => cases h; simp [State.genEnd_db]
  | capture m => cases h; simp [State.capture_db]
  | powerOn => exact absurd rfl hpow

/-- Settles O51: of the invariant only "an open unit's buffer is not ready" is needed. -/
theorem readyBuffersAreNotWritten : Obligations.ReadyBuffersAreNotWritten :=
  fun _ _ _ _ b hpow hwf hready h => runEvent_keepsReady hpow (dbWf_open hwf) h b hready

end Sys2Proof.Machine
end

section
/-! ## A double buffer is a queue of units (R80, R162, R184, R186) -/

namespace Sys2Proof.Machine

/-! ### The published elements and the open unit -/

/-- An open unit is in a buffer other than a ready one. -/
theorem DBuf.ne_w_of_ready {cap : Nat} {p : Word → Bool} {d : DBuf} {b : Half}
    (h : dbWf cap p d = true) (ho : d.isOpen = true) (hb : (d.buf b).ready = true) : b ≠ d.w := by
  rintro rfl
  simp [dbWf_open h ho] at hb

/-- Nothing is published exactly where the consumer's buffer is not ready. -/
theorem DBuf.unread_eq_nil_iff {cap : Nat} {p : Word → Bool} {d : DBuf} (h : dbWf cap p d = true) :
    d.unread = [] ↔ (d.buf d.r).ready = false := by
  cases hr : (d.buf d.r).ready with
  | false => simp [DBuf.unread, hr]
  | true =>
    obtain ⟨-, -, -, -, -, hpos⟩ := bufWf_iff.1 (dbWf_buf h d.r)
    simp [DBuf.unread, hr, Buf.remaining, Memory.slice_cons _ (hpos hr)]

/-- A buffer that is not ready, before and after, holds nothing published. -/
theorem DBuf.unread_setBuf_of_not_ready {d : DBuf} {b : Half} {x : Buf}
    (hb : (d.buf b).ready = false) (hx : x.ready = false) : (d.setBuf b x).unread = d.unread := by
  by_cases hr : d.r = b
  · simp [DBuf.unread, hr, hb, hx]
  · have hother : (!d.r) = b := by simpa using Bool.not_eq.2 hr
    simp [DBuf.unread, hr, hother, hb, hx]

/-- The open unit depends on the open bit, on W and on the buffer of W alone. -/
theorem DBuf.openUnit_congr {d d' : DBuf} (ho : d'.isOpen = d.isOpen) (hw : d'.w = d.w)
    (hbuf : d.isOpen = true → d'.buf d.w = d.buf d.w) : d'.openUnit = d.openUnit := by
  simp only [DBuf.openUnit, ho, hw]
  split
  case isTrue hopen => rw [hbuf hopen]
  case isFalse => rfl

/-- The consumer takes the oldest published element, which satisfies the check of its kind, and leaves
the open unit alone (R162, R184). -/
theorem DBuf.take_of_unread {cap : Nat} {p : Word → Bool} {d : DBuf} {v : Word} {rest : List Word}
    (h : dbWf cap p d = true) (hu : d.unread = v :: rest) :
    (d.buf d.r).ready = true ∧ (d.buf d.r).pos < (d.buf d.r).size ∧ p v = true ∧
    ∃ d', d.take cap = .ok (v, d') ∧ d'.unread = rest ∧ d'.openUnit = d.openUnit := by
  obtain ⟨-, hbelow, -, hcap, -, hpos⟩ := bufWf_iff.1 (dbWf_buf h d.r)
  have hr : (d.buf d.r).ready = true := by
    rw [← Bool.not_eq_false, ← DBuf.unread_eq_nil_iff h, hu]
    simp
  have hlt := hpos hr
  simp only [DBuf.unread, hr, if_true, Buf.remaining, Memory.slice_cons _ hlt, List.cons_append,
    List.cons.injEq] at hu
  obtain ⟨hv, hrest⟩ := hu
  have hw : d.isOpen = true → d.w ≠ d.r := fun ho => (DBuf.ne_w_of_ready h ho hr).symm
  refine ⟨hr, hlt, hv ▸ Memory.holdsBelow_get hbelow hlt, _,
    by rw [DBuf.take_eq, if_pos (by omega), hv], ?_⟩
  split
  case isTrue hlast =>
    refine ⟨?_, DBuf.openUnit_congr (by simp) (by simp) fun ho => by simp [DBuf.release_buf, hw ho]⟩
    rw [← hrest, hlast, Memory.slice_self]
    simp [DBuf.unread, DBuf.release_buf, Buf.remaining]
  case isFalse =>
    refine ⟨?_, DBuf.openUnit_congr (by simp) (by simp) fun ho => by simp [hw ho]⟩
    simp [DBuf.unread, hr, Buf.remaining, ← hrest]

/-- The double buffer that a DB_PUT of `x` leaves: `x` stands at the end of buffer W (R181). -/
def DBuf.extended (d : DBuf) (x : Word) : DBuf :=
  d.setBuf d.w
    { d.buf d.w with
      payload := (d.buf d.w).payload.insert (d.buf d.w).size x, size := (d.buf d.w).size + 1 }

/-- The element is added to the open unit, and nothing is published (R181). -/
theorem DBuf.extended_queue {d : DBuf} {x : Word} (ho : d.isOpen = true)
    (hb : (d.buf d.w).ready = false) :
    (d.extended x).openUnit = d.openUnit ++ [x] ∧ (d.extended x).unread = d.unread := by
  refine ⟨?_, DBuf.unread_setBuf_of_not_ready hb hb⟩
  simp [DBuf.extended, DBuf.openUnit, ho, Memory.slice_insert_end]

/-- The double buffer that a DB_COMMIT of a unit with elements leaves (R182). -/
def DBuf.published (d : DBuf) : DBuf :=
  { d.setBuf d.w { d.buf d.w with pos := 0, ready := true } with isOpen := false, w := !d.w }

theorem DBuf.published_buf (d : DBuf) (b : Half) :
    d.published.buf b =
      if b = d.w then { d.buf d.w with pos := 0, ready := true } else d.buf b :=
  DBuf.setBuf_buf d d.w b _

theorem DBuf.published_r (d : DBuf) : d.published.r = d.r := DBuf.setBuf_r d d.w _

/-- While a unit is open, its buffer follows the ready ones: it is R exactly where none is ready, and
the buffer after R is not ready in either case (R28 (6)). -/
theorem dbWf_order_of_open {cap : Nat} {p : Word → Bool} {d : DBuf} (h : dbWf cap p d = true)
    (ho : d.isOpen = true) :
    (d.buf (!d.r)).ready = false ∧
      (d.w = d.r ∧ (d.buf d.r).ready = false ∨ d.w = (!d.r) ∧ (d.buf d.r).ready = true) := by
  have hw := dbWf_open h ho
  have horder := dbWf_order h
  unfold orderWf at horder
  split at horder
  case h_1 hr _ =>
    rw [beq_iff_eq.1 horder, hr] at hw
    cases hw
  case h_2 hr hn => exact ⟨hn, .inr ⟨beq_iff_eq.1 horder, hr⟩⟩
  case h_3 hr hn => exact ⟨hn, .inl ⟨beq_iff_eq.1 horder, hr⟩⟩
  case h_4 => cases horder

/-- The whole open unit goes to the end of the published elements (R28 (6), R182). -/
theorem DBuf.published_queue {cap : Nat} {p : Word → Bool} {d : DBuf} (h : dbWf cap p d = true)
    (ho : d.isOpen = true) :
    d.published.openUnit = [] ∧ d.published.unread = d.unread ++ d.openUnit := by
  refine ⟨rfl, ?_⟩
  obtain ⟨hn, ⟨hw, hr⟩ | ⟨hw, hr⟩⟩ := dbWf_order_of_open h ho <;>
    simp [DBuf.unread, DBuf.openUnit, Buf.remaining, DBuf.published_buf, DBuf.published_r,
      ho, hw, hr, hn]

/-! ### The producer's commands -/

/-- The answer of a command is its one response, where the command left its port alone until then. -/
theorem answered_respond_iff {s s' : State} {st : Status} {v : Word} {r : Response}
    (hactive : s'.active = s.active) (hport : s'.port s.active = s.port s.active) :
    answered s.active s (s'.respond st v) r ↔ r = ⟨st, v⟩ := by
  simp [answered, hactive, hport, eq_comm]

/-- A DB_PUT that answers OK writes its element at the end of the open unit (R181). -/
theorem execDbPut_ok {i : Inst} {x v : Word} {s t : State} (h : execDbPut i x s = .next t)
    (ha : answered s.active s t ⟨.ok, v⟩) :
    (s.db i).isOpen = true ∧ t.db i = (s.db i).extended x := by
  simp only [execDbPut] at h
  split at h
  · cases h; cases (answered_respond_iff rfl rfl).1 ha
  case isFalse ho =>
  split at h
  · cases h; cases (answered_respond_iff rfl rfl).1 ha
  split at h
  · cases h; cases (answered_respond_iff rfl rfl).1 ha
  obtain ⟨m, hm, ht⟩ := orFault_eq_next.1 h
  obtain ⟨-, rfl⟩ := memWrite_eq_ok.1 hm
  cases ht
  exact ⟨by simpa using ho, by simp [DBuf.extended]⟩

/-- A DB_COMMIT that answers OK publishes the open unit (R182). -/
theorem execDbCommit_ok {i : Inst} {v : Word} {s t : State} (h : execDbCommit i s = .next t)
    (ha : answered s.active s t ⟨.ok, v⟩) :
    (s.db i).isOpen = true ∧ t.db i = (s.db i).published := by
  simp only [execDbCommit] at h
  split at h
  · cases h; cases (answered_respond_iff rfl rfl).1 ha
  case isFalse ho =>
  split at h <;> cases h
  · cases (answered_respond_iff (by simp) (by simp)).1 ha
  · exact ⟨by simpa using ho, by simp [DBuf.published]⟩

/-! ### The consumers -/

theorem execDbGet_of_unread_nil {s : State} {p : Word → Bool}
    (h : dbWf s.cfg.dbCap p s.dbRx = true) (hu : s.dbRx.unread = []) :
    execDbGet .rx s = .next (s.respond .empty 0) := by
  simp [execDbGet, (DBuf.unread_eq_nil_iff h).1 hu]

theorem execDbGet_of_unread_cons {s : State} {p : Word → Bool} {v : Word} {rest : List Word}
    (h : dbWf s.cfg.dbCap p s.dbRx = true) (hu : s.dbRx.unread = v :: rest) :
    ∃ d, execDbGet .rx s = .next ({ s with dbRx := d }.respond .ok v) ∧
      d.unread = rest ∧ d.openUnit = s.dbRx.openUnit := by
  obtain ⟨hr, hlt, -, d, htake, hrest, hopen⟩ := DBuf.take_of_unread h hu
  exact ⟨d, by simp [execDbGet, hr, Nat.not_le.2 hlt, htake], hrest, hopen⟩

theorem takeTick_of_unread_nil {s : State} {p : Word → Bool}
    (h : dbWf s.cfg.dbCap p s.dbTx = true) (hu : s.dbTx.unread = []) :
    takeTick s = .next
      (({ s with tickPending := false }.genEnqueue (silenceWidth s.cfg)).count .txSilence) := by
  simp [takeTick, (DBuf.unread_eq_nil_iff h).1 hu]

theorem takeTick_of_unread_cons {s : State} {p : Word → Bool} {c : Word} {rest : List Word}
    (h : dbWf s.cfg.dbCap p s.dbTx = true) (hu : s.dbTx.unread = c :: rest) :
    ∃ d, takeTick s = .next
        (({ s with tickPending := false, dbTx := d }.genEnqueue (widthSent s.cfg c)).count .txCode) ∧
      p c = true ∧ d.unread = rest ∧ d.openUnit = s.dbTx.openUnit := by
  obtain ⟨hr, hlt, hp, d, htake, hrest, hopen⟩ := DBuf.take_of_unread h hu
  exact ⟨d, by simp [takeTick, hr, hlt, htake], hp, hrest, hopen⟩

/-! ### The obligation -/

/-- Settles O54: what each operation does to the double buffer (`extended_queue`, `published_queue`,
`take_of_unread`), by way of what each command and the tick leave there. -/
theorem doubleBufferIsAQueueOfUnits : Obligations.DoubleBufferIsAQueueOfUnits := by
  refine ⟨fun s t i x v hwf h ha => ?_, fun s t i v hwf h ha => ?_,
    fun s hwf => ⟨execDbGet_of_unread_nil hwf, fun v rest hu => ?_⟩,
    fun s hwf hen => ⟨fun hu => ?_, fun c rest hu => ?_⟩⟩
  · obtain ⟨ho, ht⟩ := execDbPut_ok h ha
    rw [ht]
    exact DBuf.extended_queue ho (dbWf_open hwf ho)
  · obtain ⟨ho, ht⟩ := execDbCommit_ok h ha
    rw [ht]
    exact DBuf.published_queue hwf ho
  · obtain ⟨d, hexec, hrest, hopen⟩ := execDbGet_of_unread_cons hwf hu
    refine ⟨_, hexec, (answered_respond_iff rfl (s.setDb_port .rx d _)).2 rfl, ?_, ?_⟩
    · simpa using hrest
    · simpa using hopen
  · exact ⟨_, (if_pos hen).trans (takeTick_of_unread_nil hwf hu), rfl, rfl⟩
  · obtain ⟨d, htick, hc, hrest, hopen⟩ := takeTick_of_unread_cons hwf hu
    exact ⟨_, (if_pos hen).trans htick, rfl, by simpa [elementOk] using hc, hrest, hopen⟩

end Sys2Proof.Machine
end

section
/-! ## A transaction as bytes (R72, R95) -/

namespace Sys2Proof

/-! ### Decoding an encoded command -/

/-- Every mask keeps the OP byte. -/
theorem Row.mask_op (r : Row) : r.mask.extractLsb' 8 8 = BitVec.allOnes 8 := by
  unfold Row.mask
  split <;> decide

/-- A row selects only words of its own OP byte. -/
theorem Row.op_eq_of_selects {r : Row} {w : BitVec 16} (h : r.selects w = true) :
    r.op = w.extractLsb' 8 8 := by
  have hop := congrArg (BitVec.extractLsb' 8 8) (beq_iff_eq.1 h)
  rw [BitVec.extractLsb'_and, r.mask_op, BitVec.and_allOnes, Row.matchBits,
    BitVec.extractLsb'_append_eq_left] at hop
  exact hop.symm

theorem rows_op_nodup : (rows.map Row.op).Nodup := by decide

/-- At most one row selects a word (R95). -/
theorem rows_selects_unique {r r' : Row} {w : BitVec 16} (hr : r ∈ rows) (hr' : r' ∈ rows)
    (h : r.selects w = true) (h' : r'.selects w = true) : r = r' :=
  List.inj_on_of_nodup_map rows_op_nodup hr hr'
    ((Row.op_eq_of_selects h).trans (Row.op_eq_of_selects h').symm)

/-- The decoder reads a word by the row that selects it. -/
theorem decode_of_selects {r : Row} {t : Txn} (hr : r ∈ rows) (h : r.selects t.cmd = true) :
    decode t = .ok (r.build t) := by
  unfold decode
  cases hfind : rows.find? (fun r => r.selects t.cmd) with
  | none => simpa [h] using List.find?_eq_none.1 hfind r hr
  | some r' =>
    have hsel : r'.selects t.cmd = true := by simpa using List.find?_some hfind
    rw [rows_selects_unique hr (List.mem_of_find?_eq_some hfind) h hsel]

/-- The command word of every command selects its own row. -/
theorem encode_selects (i : Instr) : Laws.OpcodeRow.Statement i := by
  cases i with
  | nop => exact Laws.OpcodeRow.nop
  | csrRead csr => exact Laws.OpcodeRow.csrRead csr
  | setFormat rate depth => exact Laws.OpcodeRow.setFormat rate depth
  | statsClear => exact Laws.OpcodeRow.statsClear
  | ppmEncode x => exact Laws.OpcodeRow.ppmEncode x
  | ppmDecode c => exact Laws.OpcodeRow.ppmDecode c
  | downmix l r => exact Laws.OpcodeRow.downmix l r
  | pdmStep x => exact Laws.OpcodeRow.pdmStep x
  | genPush w => exact Laws.OpcodeRow.genPush w
  | detPop => exact Laws.OpcodeRow.detPop
  | rxCorrect m => exact Laws.OpcodeRow.rxCorrect m
  | rxPoll => exact Laws.OpcodeRow.rxPoll
  | dbBegin j => exact Laws.OpcodeRow.dbBegin j
  | dbPut j x => exact Laws.OpcodeRow.dbPut j x
  | dbCommit j => exact Laws.OpcodeRow.dbCommit j
  | dbGet j => exact Laws.OpcodeRow.dbGet j
  | fifoPush w => exact Laws.OpcodeRow.fifoPush w
  | fifoPop => exact Laws.OpcodeRow.fifoPop
  | ringAppend w => exact Laws.OpcodeRow.ringAppend w
  | ringFlush => exact Laws.OpcodeRow.ringFlush
  | ringPop => exact Laws.OpcodeRow.ringPop

theorem decode_encode (i : Instr) : decode (encode i) = .ok i := by
  obtain ⟨r, hr, hsel, hbuild⟩ := encode_selects i
  rw [decode_of_selects hr hsel, hbuild]

/-! ### The bytes of a word, the least significant first -/

/-- Two bytes, put together again. -/
theorem append_bytes_16 (w : BitVec 16) : w.extractLsb' 8 8 ++ w.extractLsb' 0 8 = w := by
  have h : w.extractLsb' 8 8 ++ w.extractLsb' 0 8 = w.extractLsb' 0 16 :=
    BitVec.extractLsb'_append_extractLsb'_eq_extractLsb' rfl
  exact h.trans BitVec.extractLsb'_eq_self

/-- Four bytes, put together again. -/
theorem append_bytes_32 (w : Word) :
    w.extractLsb' 24 8 ++ w.extractLsb' 16 8 ++ w.extractLsb' 8 8 ++ w.extractLsb' 0 8 = w := by
  have h2 : w.extractLsb' 24 8 ++ w.extractLsb' 16 8 = w.extractLsb' 16 16 :=
    BitVec.extractLsb'_append_extractLsb'_eq_extractLsb' rfl
  have h3 : w.extractLsb' 16 16 ++ w.extractLsb' 8 8 = w.extractLsb' 8 24 :=
    BitVec.extractLsb'_append_extractLsb'_eq_extractLsb' rfl
  have h4 : w.extractLsb' 8 24 ++ w.extractLsb' 0 8 = w.extractLsb' 0 32 :=
    BitVec.extractLsb'_append_extractLsb'_eq_extractLsb' rfl
  rw [h2, h3, h4]
  exact BitVec.extractLsb'_eq_self

/-- Reading the bytes of a transaction gives it back. -/
theorem Txn.ofBytes_toBytes (t : Txn) : Txn.ofBytes t.toBytes = some t := by
  simp only [Txn.toBytes, Txn.ofBytes, append_bytes_16, append_bytes_32]

/-- Byte `k` of a word as a number. -/
theorem byte_toNat {n : Nat} (w : BitVec n) (k : Nat) :
    (w.extractLsb' k 8).toNat = w.toNat / 2 ^ k % 256 := by
  rw [BitVec.extractLsb'_toNat, Nat.shiftRight_eq_div_pow]

/-- The last byte of a word is what is left of it. -/
theorem last_byte_toNat {n k : Nat} (w : BitVec n) (h : n = k + 8) :
    (w.extractLsb' k 8).toNat = w.toNat / 2 ^ k := by
  subst h
  rw [byte_toNat, Nat.mod_eq_of_lt (Nat.div_lt_of_lt_mul (by simpa [pow_add] using w.isLt))]

/-- Settles O58: the bytes of a word put together again are the word, and the decoder gives every
encoded command back. -/
theorem bytesRoundTrip : Obligations.BytesRoundTrip := by
  refine ⟨fun i => ?_, fun t => ⟨t.ofBytes_toBytes, ?_⟩⟩
  · rw [decodeBytes, encodeBytes, Txn.ofBytes_toBytes]
    exact decode_encode i
  · simp only [Txn.toBytes, List.map_cons, List.map_nil, last_byte_toNat t.cmd (k := 8) rfl,
      last_byte_toNat t.a (k := 24) rfl, last_byte_toNat t.b (k := 24) rfl, byte_toNat]
    norm_num

end Sys2Proof
end

section
/-! ## The decoder and the encoder (R92, R93, R95 to R98)

What a row selects is said once, by its OP byte and by what its SEL class reads of SEL; what `decode`
answers is then a statement about the rows, and each claim is read off the table. -/

namespace Sys2Proof

/-! ### What a row selects -/

/-- What a SEL class gives a meaning to: nothing, bit 0, or the whole byte (R92). A word
selects a row only where this is all of SEL. -/
def SelClass.read : SelClass → BitVec 8 → BitVec 8
  | .z, _ => 0
  | .i, sel => sel &&& 1
  | .c, sel => sel

theorem SelClass.read_z_eq_iff (sel : BitVec 8) : SelClass.z.read sel = sel ↔ sel = 0 := eq_comm

theorem SelClass.read_i_eq_iff (sel : BitVec 8) : SelClass.i.read sel = sel ↔ sel.toNat < 2 := by
  revert sel
  unfold SelClass.read
  decide

theorem SelClass.read_c (sel : BitVec 8) : SelClass.c.read sel = sel := rfl

/-- The SEL half of the mask of a class (R95). -/
def SelClass.maskByte : SelClass → BitVec 8
  | .z => 0xFF
  | .i => 0xFE
  | .c => 0x00

theorem Row.mask_eq_append (r : Row) : r.mask = BitVec.allOnes 8 ++ r.cls.maskByte := by
  unfold Row.mask
  cases r.cls <;> rfl

theorem SelClass.and_maskByte_eq_zero_iff (cls : SelClass) (sel : BitVec 8) :
    sel &&& cls.maskByte = 0#8 ↔ cls.read sel = sel := by
  revert sel
  cases cls <;> (unfold SelClass.maskByte SelClass.read; decide)

theorem append_bytes_inj {op sel op' sel' : BitVec 8} :
    op ++ sel = op' ++ sel' ↔ op = op' ∧ sel = sel' := by
  refine ⟨fun h => ⟨?_, ?_⟩, fun ⟨hop, hsel⟩ => by rw [hop, hsel]⟩
  · simpa only [BitVec.extractLsb'_append_eq_left] using congrArg (BitVec.extractLsb' 8 8) h
  · simpa only [BitVec.extractLsb'_append_eq_right] using congrArg (BitVec.extractLsb' 0 8) h

/-- A row selects the words of its OP byte whose SEL lies in its class (R92, R95). -/
theorem Row.selects_append_iff (r : Row) (op sel : BitVec 8) :
    r.selects (op ++ sel) = true ↔ r.op = op ∧ r.cls.read sel = sel := by
  rw [Row.selects, beq_iff_eq, r.mask_eq_append, BitVec.and_append, BitVec.and_allOnes,
    Row.matchBits, append_bytes_inj, SelClass.and_maskByte_eq_zero_iff, eq_comm (a := op)]

/-- The word a row selects is its OP byte and what its class reads of SEL. -/
theorem Row.cmd_eq_of_selects {r : Row} {t : Txn} (h : r.selects t.cmd = true) :
    r.op ++ r.cls.read t.sel = t.cmd := by
  rw [← append_bytes_16 t.cmd, Row.selects_append_iff] at h
  obtain ⟨hop, hsel⟩ := h
  rw [hop, Txn.sel, hsel, append_bytes_16]

/-- At most one row has a given OP byte (R95). -/
theorem rows_op_unique {r r' : Row} (hr : r ∈ rows) (hr' : r' ∈ rows) (h : r.op = r'.op) : r = r' :=
  List.inj_on_of_nodup_map rows_op_nodup hr hr' h

/-! ### What the decoder answers -/

theorem selects_of_find? {r : Row} {w : BitVec 16}
    (h : rows.find? (fun r => r.selects w) = some r) : r ∈ rows ∧ r.selects w = true :=
  ⟨List.mem_of_find?_eq_some h, by simpa using List.find?_some h⟩

/-- A word decodes to what the row that selects it builds (R98). -/
theorem decode_ok_iff {t : Txn} {i : Instr} :
    decode t = .ok i ↔ ∃ r ∈ rows, r.selects t.cmd = true ∧ i = r.build t := by
  constructor
  · intro h
    unfold decode at h
    split at h
    next r hfind =>
      obtain ⟨hr, hsel⟩ := selects_of_find? hfind
      exact ⟨r, hr, hsel, (Except.ok.inj h).symm⟩
    next => cases h
  · rintro ⟨r, hr, hsel, rfl⟩
    exact decode_of_selects hr hsel

/-- The illegal words are those that no row selects (R96). -/
theorem exists_decode_error_iff {t : Txn} :
    (∃ e, decode t = .error e) ↔ ∀ r ∈ rows, ¬ r.selects t.cmd = true := by
  constructor
  · rintro ⟨e, h⟩ r hr hsel
    cases h.symm.trans (decode_of_selects hr hsel)
  · intro h
    have hfind : rows.find? (fun r => r.selects t.cmd) = none := List.find?_eq_none.2 h
    exact ⟨illegalReason t, by rw [decode, hfind]⟩

/-- Two transactions of one command word decode alike if the row of its OP byte builds the same
command from both: selecting a row, and the reason for refusing a word, are matters of CMD alone. -/
theorem decode_congr {t t' : Txn} (hcmd : t.cmd = t'.cmd)
    (hbuild : ∀ r ∈ rows, r.op = t.op → r.build t = r.build t') : decode t = decode t' := by
  have hreason : illegalReason t = illegalReason t' := by
    unfold illegalReason Txn.op Txn.sel
    rw [hcmd]
  unfold decode
  rw [← hcmd, hreason]
  split
  next r hfind =>
    obtain ⟨hr, hsel⟩ := selects_of_find? hfind
    rw [hbuild r hr (Row.op_eq_of_selects hsel)]
  next => rfl

/-! ### Decoding and encoding (R90, R92, R95) -/

/-- The double buffer a command names, written back as SEL, is what class I reads of SEL (R92). -/
theorem Txn.inst_sel (t : Txn) : t.inst.sel = SelClass.i.read t.sel := by
  have hbit : t.cmd.getLsbD 0 = t.sel.getLsbD 0 := by simp [Txn.sel]
  have hread : ∀ sel : BitVec 8,
      (if sel.getLsbD 0 then Inst.rx else Inst.tx).sel = SelClass.i.read sel := by
    unfold Inst.sel SelClass.read
    decide
  rw [Txn.inst, hbit, hread]

/-- The command a row builds has the row's OP byte and, in SEL, what the row's class reads. -/
theorem encode_build_cmd {r : Row} (hr : r ∈ rows) (t : Txn) :
    (encode (r.build t)).cmd = r.op ++ r.cls.read t.sel := by
  revert r
  simp [rows, encode, Txn.inst_sel, SelClass.read]

/-- Settles O57: a word that decodes is selected by a row, whose command has the OP byte and the SEL
of that word. -/
theorem decodeInvertsEncode : Obligations.DecodeInvertsEncode := by
  refine ⟨decode_encode, fun t i h => ?_⟩
  obtain ⟨r, hr, hsel, rfl⟩ := decode_ok_iff.1 h
  rw [encode_build_cmd hr, Row.cmd_eq_of_selects hsel]

/-! ### The rows that select a word (R95) -/

/-- Rows that select one word have one OP byte, and the OP bytes are distinct. -/
theorem length_filter_selects_le_one (w : BitVec 16) :
    (rows.filter fun r => r.selects w).length ≤ 1 := by
  have hsame : ∀ b ∈ (rows.filter fun r => r.selects w).map Row.op, b = w.extractLsb' 8 8 := by
    simp only [List.mem_map, List.mem_filter]
    rintro b ⟨r, ⟨-, hsel⟩, rfl⟩
    exact Row.op_eq_of_selects hsel
  have hnodup : ((rows.filter fun r => r.selects w).map Row.op).Nodup :=
    rows_op_nodup.sublist (List.filter_sublist.map _)
  rw [List.eq_replicate_of_mem hsame, List.nodup_replicate, List.length_map] at hnodup
  exact hnodup

/-- Settles O55: the table is R95's row by row, and the rest is `length_filter_selects_le_one` and
`decode_ok_iff`. -/
theorem atMostOneRowSelectsAWord : Obligations.AtMostOneRowSelectsAWord :=
  ⟨rfl, length_filter_selects_le_one, fun t i => by
    simpa only [Row.selects, beq_iff_eq] using decode_ok_iff (t := t) (i := i)⟩

/-! ### The operands a command reads (R93) -/

/-- A row that reads fewer than two operands does not read B. -/
theorem build_ignores_b {r : Row} (hr : r ∈ rows) (h : r.operands < 2) (cmd : BitVec 16)
    (a b b' : Word) : r.build ⟨cmd, a, b⟩ = r.build ⟨cmd, a, b'⟩ := by
  revert r
  simp [rows, Txn.sel, Txn.inst]

/-- A row without operands reads neither. -/
theorem build_ignores_operands {r : Row} (hr : r ∈ rows) (h : r.operands = 0) (cmd : BitVec 16)
    (a b a' b' : Word) : r.build ⟨cmd, a, b⟩ = r.build ⟨cmd, a', b'⟩ := by
  revert r
  simp [rows, Txn.sel, Txn.inst]

/-- The OP bytes that read both operands (R93). -/
theorem ops_with_b :
    (rows.filter fun r => 2 ≤ r.operands).map Row.op = [0x02, 0x12] := rfl

/-- The OP bytes that read an operand (R93). -/
theorem ops_with_operands : (rows.filter fun r => 1 ≤ r.operands).map Row.op =
    [0x02, 0x10, 0x11, 0x12, 0x13, 0x20, 0x28, 0x31, 0x40, 0x48] := rfl

/-- The row of an OP byte that is not among those with `n` operands or more has fewer. -/
theorem operands_lt_of_op_not_mem {r : Row} (hr : r ∈ rows) {op : BitVec 8} (hop : r.op = op)
    {n : Nat} (h : op ∉ (rows.filter fun r => n ≤ r.operands).map Row.op) : r.operands < n := by
  by_contra hge
  subst hop
  exact h (List.mem_map_of_mem (List.mem_filter.2 ⟨hr, by simpa using hge⟩))

/-- Settles O56: the commands that read B, and those that read an operand, are the rows of the
operand table of R93. -/
theorem unusedOperandsAreIgnored : Obligations.UnusedOperandsAreIgnored := by
  intro op sel a b a' b'
  have hop (x y : Word) : (⟨op ++ sel, x, y⟩ : Txn).op = op := BitVec.extractLsb'_append_eq_left
  refine ⟨fun h => decode_congr rfl fun r hr hrop => ?_,
    fun h => decode_congr rfl fun r hr hrop => ?_⟩
  · have hlt := operands_lt_of_op_not_mem hr (hrop.trans (hop a b)) (ops_with_b ▸ h)
    exact build_ignores_b hr hlt _ a b b'
  · have hlt := operands_lt_of_op_not_mem hr (hrop.trans (hop a b)) (ops_with_operands ▸ h)
    exact build_ignores_operands hr (Nat.lt_one_iff.1 hlt) _ a b a' b'

/-! ### The illegal words (R96) -/

/-- The OP bytes of a SEL class. -/
def opsOf (cls : SelClass) : List (BitVec 8) := (rows.filter fun r => r.cls = cls).map Row.op

theorem Row.op_mem_opsOf_iff {r : Row} (hr : r ∈ rows) (cls : SelClass) :
    r.op ∈ opsOf cls ↔ r.cls = cls := by
  simp only [opsOf, List.mem_map, List.mem_filter, decide_eq_true_eq]
  refine ⟨fun ⟨r', ⟨hr', hcls⟩, hop⟩ => ?_, fun hcls => ⟨r, ⟨hr, hcls⟩, rfl⟩⟩
  rwa [← rows_op_unique hr' hr hop]

/-- No row selects a word of a row's OP byte exactly if SEL is not of the row's class. -/
theorem Row.none_selects_iff {r : Row} (hr : r ∈ rows) (sel : BitVec 8) :
    (∀ r' ∈ rows, ¬ r'.selects (r.op ++ sel) = true) ↔ r.cls.read sel ≠ sel := by
  simp only [Row.selects_append_iff]
  refine ⟨fun h hsel => h r hr ⟨rfl, hsel⟩, fun hsel r' hr' ⟨hop, hsel'⟩ => hsel ?_⟩
  rwa [← rows_op_unique hr' hr hop]

/-- No row selects a word for one of the three reasons of R96: its OP byte is in no row, or is of
class Z with SEL not 0, or is of class I with SEL 2 or more. -/
theorem none_selects_iff (op sel : BitVec 8) :
    (∀ r ∈ rows, ¬ r.selects (op ++ sel) = true) ↔
      op ∉ rows.map Row.op ∨ (op ∈ opsOf .z ∧ sel ≠ 0) ∨ (op ∈ opsOf .i ∧ 2 ≤ sel.toNat) := by
  by_cases hop : op ∈ rows.map Row.op
  · obtain ⟨r, hr, rfl⟩ := List.mem_map.1 hop
    rw [Row.none_selects_iff hr, Row.op_mem_opsOf_iff hr, Row.op_mem_opsOf_iff hr]
    cases hcls : r.cls with
    | z => simp [hop, SelClass.read_z_eq_iff]
    | i => simp [hop, SelClass.read_i_eq_iff, Nat.succ_le_iff]
    | c => simp [hop, SelClass.read_c]
  · refine iff_of_true (fun r hr hsel => hop ?_) (.inl hop)
    obtain ⟨hrop, -⟩ := (r.selects_append_iff op sel).1 hsel
    exact hrop ▸ List.mem_map_of_mem hr

/-! ### Sample words -/

/-- Settles O59: each word is that of the encoding of its command. -/
theorem sampleWordsDecode : Obligations.SampleWordsDecode := by
  have hneg : BitVec.ofInt 32 (-32768) = 0xFFFF8000 := by decide
  refine ⟨decode_encode (.setFormat 44100 24), decode_encode (.csrRead 3), ?_,
    decode_encode (.genPush 100), decode_encode .rxPoll, decode_encode (.dbPut .rx 64),
    decode_encode .ringPop⟩
  rw [hneg]
  exact decode_encode (.ppmEncode 0xFFFF8000)

end Sys2Proof
end

section
/-! ## The step that runs a decoded or an illegal command (R96, R98, R254 to R256) -/

namespace Sys2Proof.Machine

/-! ### The step of a port with a command in progress -/

/-- A port that is not held runs its command in progress, while no TX_TICK is enabled. -/
theorem portStep_eq_runTxn {s : State} {p : PortId} {t : Txn} (hhold : (s.port p).hold = .none)
    (hcmd : (s.port p).cmd = some t) (htick : s.txTickEnabled = false) :
    portStep p s = runTxn p t s := by
  simp [portStep, htick, hhold, hcmd]

theorem runTxn_of_decode_ok {t : Txn} {i : Instr} (h : decode t = .ok i) (p : PortId) (s : State) :
    runTxn p t s = exec i { s with active := p } := by
  simp only [runTxn, h]

theorem runTxn_of_decode_error {t : Txn} {e : Illegal} (h : decode t = .error e) (p : PortId)
    (s : State) : runTxn p t s = .next ({ s with active := p }.respond .illegal 0) := by
  simp only [runTxn, h]

/-- A command presented on a free port runs at once, while no TX_TICK is enabled. -/
theorem runEvent_command_eq_runTxn {s : State} {p : PortId} {t : Txn} (hfree : s.portFree p = true)
    (htick : s.txTickEnabled = false) :
    runEvent (.command p t) s = runTxn p t (s.present p t) := by
  obtain ⟨hhold, -⟩ := (s.portFree_iff p).1 hfree
  rw [runEvent, if_pos hfree]
  exact portStep_eq_runTxn (by simpa using hhold) (by simp) (by simpa using htick)

/-- The answer of the active port leaves no trace of the command it answers. -/
theorem respond_present (s : State) (p : PortId) (t : Txn) (st : Status) (v : Word) :
    { s.present p t with active := p }.respond st v = { s with active := p }.respond st v := by
  cases p <;> rfl

/-- Settles O38: the refused words by the row of their OP byte (`none_selects_iff`), their answer by
`runTxn`. -/
theorem illegalCommandsChangeNothing : Obligations.IllegalCommandsChangeNothing := by
  refine ⟨fun op sel a b => ?_, fun s p t e hfree htick hdec => ?_,
    fun s p t e hhold hcmd htick hdec => ?_⟩
  · exact ((exists_decode_error_iff (t := ⟨op ++ sel, a, b⟩)).trans (none_selects_iff op sel)).symm
  · rw [runEvent_command_eq_runTxn hfree htick, runTxn_of_decode_error hdec, respond_present]
  · exact (portStep_eq_runTxn hhold hcmd htick).trans (runTxn_of_decode_error hdec p s)

/-! ### The step of the block -/

theorem step_of_script_cons {s : State} {e : Event} {rest : List Event} (h : s.script = e :: rest) :
    step s = runEvent e { s with script := rest } := by
  simp only [step, takeStep, nextEvent, h]

theorem step_of_script_nil {s : State} (h : s.script = []) :
    step s = runEvent (Config.freeEvent s.draws) { s with draws := s.draws + 1 } := by
  simp only [step, takeStep, nextEvent, h]

/-- A step whose event presents a command on a free port is `exec` of it, on that port. -/
theorem step_of_command {s : State} {p : PortId} {t : Txn} {rest : List Event} {i : Instr}
    (hscript : s.script = .command p t :: rest) (hhold : (s.port p).hold = .none)
    (hcmd : (s.port p).cmd = none) (htick : s.txTickEnabled = false) (hdec : decode t = .ok i) :
    step s = exec i
      ({ s with script := rest, active := p }.setPort p { s.port p with cmd := some t }) := by
  have hfree : State.portFree { s with script := rest } p = true :=
    (State.portFree_iff _ p).2 ⟨hhold, hcmd⟩
  rw [step_of_script_cons hscript, runEvent_command_eq_runTxn hfree htick, runTxn_of_decode_ok hdec]
  cases p <;> rfl

/-- A step whose event tries a waiting command again is `exec` of it, on its port. -/
theorem step_of_proceed {s : State} {p : PortId} {t : Txn} {rest : List Event} {i : Instr}
    (hscript : s.script = .proceed p :: rest) (hhold : (s.port p).hold = .none)
    (hcmd : (s.port p).cmd = some t) (htick : s.txTickEnabled = false) (hdec : decode t = .ok i) :
    step s = exec i { s with script := rest, active := p } := by
  have hrun : portStep p { s with script := rest } = runTxn p t { s with script := rest } :=
    portStep_eq_runTxn hhold hcmd htick
  rw [step_of_script_cons hscript, runEvent, hrun, runTxn_of_decode_ok hdec]

theorem decodeTableWord_eq_some_iff {nbits w : Nat} {i : Instr} :
    decodeTableWord nbits w = some i ↔ decode (Txn.ofTableWord nbits w) = .ok i := by
  have hbytes : decodeBytes (Txn.ofTableWord nbits w).toBytes = decode (Txn.ofTableWord nbits w) := by
    rw [decodeBytes, Txn.ofBytes_toBytes]
  rw [decodeTableWord, hbytes]
  cases decode (Txn.ofTableWord nbits w) <;> simp

/-- A step from a placed table word is `exec` of what it decodes to, on port A: the word is presented
on a free port while no tick is pending. -/
theorem step_withFetchWord {s : State} {nbits w : Nat} {i : Instr}
    (h : decodeTableWord nbits w = some i) :
    step (s.withFetchWord nbits w) = exec i
      { s with
        tickPending := false, active := .a,
        portA := ⟨.none, some (Txn.ofTableWord nbits w), s.portA.responses⟩ } :=
  step_of_command (s := s.withFetchWord nbits w) (p := .a) rfl rfl rfl rfl
    (decodeTableWord_eq_some_iff.1 h)

/-- Settles O37: one lemma for each way a step can begin. -/
theorem stepRunsTheDecodedCommand : Obligations.StepRunsTheDecodedCommand :=
  ⟨fun _ _ _ => step_of_script_cons, fun _ => step_of_script_nil,
    fun _ _ _ _ _ => step_of_command, fun _ _ _ _ _ => step_of_proceed,
    fun _ _ _ _ => step_withFetchWord⟩

end Sys2Proof.Machine
end

section
/-! ## The assembler lines and the pseudo-instructions (R99, R100) -/

namespace Sys2Proof.Machine

theorem Pseudo.expand_chSend (c : Config) (v : Word) : (Pseudo.chSend v).expand c =
    [if c.channelMode = .fifo then .fifoPush v else .ringAppend v] := by
  cases h : c.channelMode <;> simp [Pseudo.expand, h]

theorem Pseudo.expand_chRecv (c : Config) : Pseudo.chRecv.expand c =
    [if c.channelMode = .fifo then .fifoPop else .ringPop] := by
  cases h : c.channelMode <;> simp [Pseudo.expand, h]

theorem Pseudo.expand_dbUnit (c : Config) (i : Inst) (vs : List Word) :
    (Pseudo.dbUnit i vs).expand c = .dbBegin i :: (vs.map (.dbPut i ·) ++ [.dbCommit i]) := by
  simp [Pseudo.expand]

/-- Settles O60: a line with a mnemonic of R95 assembles alike in every build, and of the
expansions only those to the channel turn on the build's mode. -/
theorem assemblerFollowsItsSyntax : Obligations.AssemblerFollowsItsSyntax := fun c =>
  ⟨rfl, rfl, rfl, fun _ => rfl, rfl, rfl, Pseudo.expand_dbUnit c, Pseudo.expand_chSend c,
    Pseudo.expand_chRecv c⟩

end Sys2Proof.Machine
end

section
/-! ## The PPM quantizer (R112 to R114)

Each half of the codec cuts magnitudes into `n` bins of width `M / n`: 512 bins over the samples from
0 up, and 510 over `-1 - x` for the negative ones. The encoder's floor and the decoder's ceiling are
the two sides of one Galois connection (`le_binIndex_iff`), and every claim about the codec is read off
it. -/

namespace Sys2Proof.Machine

/-! ### The bins of one half of the codec -/

/-- The bin of the magnitude `y`: the floor of `n y / M` (R112). -/
def binIndex (n M y : Int) : Int := y * n / M

/-- The first magnitude of bin `k`: the ceiling of `k M / n` (R113). -/
def binStart (n M k : Int) : Int := (k * M + (n - 1)) / n

section Bins
variable {n M k l y z : Int}

theorem binIndex_mul_le (hM : 0 < M) : binIndex n M y * M ≤ y * n :=
  Int.ediv_mul_le _ hM.ne'

theorem lt_binIndex_add_one_mul (hM : 0 < M) : y * n < (binIndex n M y + 1) * M :=
  Int.lt_ediv_add_one_mul_self _ hM

theorem binStart_le_iff (hn : 0 < n) : binStart n M k ≤ y ↔ k * M ≤ y * n := by
  rw [binStart, ← Int.lt_add_one_iff, Int.ediv_lt_iff_lt_mul hn, add_one_mul]
  omega

/-- The ceiling from below. -/
theorem le_binStart_mul (hn : 0 < n) : k * M ≤ binStart n M k * n :=
  (binStart_le_iff hn).1 le_rfl

/-- The ceiling from above. -/
theorem binStart_sub_one_mul_lt (hn : 0 < n) : (binStart n M k - 1) * n < k * M := by
  rw [← not_le, ← binStart_le_iff hn]
  omega

/-- A magnitude lies in bin `k` or above exactly if it is not below the first one of bin `k`. -/
theorem le_binIndex_iff (hn : 0 < n) (hM : 0 < M) : k ≤ binIndex n M y ↔ binStart n M k ≤ y := by
  rw [binIndex, Int.le_ediv_iff_mul_le hM, binStart_le_iff hn]

theorem binIndex_mono (hn : 0 < n) (hM : 0 < M) (h : y ≤ z) : binIndex n M y ≤ binIndex n M z :=
  Int.ediv_le_ediv hM (mul_le_mul_of_nonneg_right h hn.le)

theorem binIndex_nonneg (hn : 0 < n) (hM : 0 < M) (hy : 0 ≤ y) : 0 ≤ binIndex n M y :=
  Int.ediv_nonneg (mul_nonneg hy hn.le) hM.le

/-- The largest magnitude stands alone in bin `n`. -/
theorem binIndex_self (hM : 0 < M) : binIndex n M M = n := Int.mul_ediv_cancel_left n hM.ne'

theorem binIndex_le (hn : 0 < n) (hM : 0 < M) (hy : y ≤ M) : binIndex n M y ≤ n :=
  (binIndex_mono hn hM hy).trans_eq (binIndex_self hM)

theorem binStart_mono (hn : 0 < n) (hM : 0 < M) (h : k ≤ l) : binStart n M k ≤ binStart n M l :=
  (binStart_le_iff hn).2 ((mul_le_mul_of_nonneg_right h hM.le).trans (le_binStart_mul hn))

theorem binStart_nonneg (hn : 0 < n) (hM : 0 < M) (hk : 0 ≤ k) : 0 ≤ binStart n M k :=
  Int.ediv_nonneg (add_nonneg (mul_nonneg hk hM.le) (by omega)) hn.le

theorem binStart_le (hn : 0 < n) (hM : 0 < M) (hk : k ≤ n) : binStart n M k ≤ M :=
  (le_binIndex_iff hn hM).1 (hk.trans_eq (binIndex_self hM).symm)

/-- Where there are no more bins than magnitudes, no bin is empty. -/
theorem binIndex_binStart (hn : 0 < n) (hM : n ≤ M) : binIndex n M (binStart n M k) = k := by
  have hM0 : 0 < M := hn.trans_le hM
  refine le_antisymm ?_ ((le_binIndex_iff hn hM0).2 le_rfl)
  rw [← Int.lt_add_one_iff, binIndex, Int.ediv_lt_iff_lt_mul hM0]
  linarith [binStart_sub_one_mul_lt (M := M) (k := k) hn]

theorem binStart_binIndex_le (hn : 0 < n) (hM : 0 < M) : binStart n M (binIndex n M y) ≤ y :=
  (le_binIndex_iff hn hM).1 le_rfl

/-- The width of a bin bounds how far a magnitude lies above the first one of its bin. -/
theorem sub_binStart_binIndex_le (hn : 0 < n) (hM : 0 < M) :
    y - binStart n M (binIndex n M y) ≤ (M - 1) / n := by
  rw [Int.le_ediv_iff_mul_le hn, Int.le_sub_one_iff]
  linarith [lt_binIndex_add_one_mul (n := n) (y := y) hM,
    le_binStart_mul (M := M) (k := binIndex n M y) hn]

end Bins

/-! ### The codec by its bins -/

theorem Depth.max_d16 : Depth.d16.max = 32767 := rfl

theorem Depth.max_d24 : Depth.d24.max = 8388607 := rfl

theorem Depth.max_pos (d : Depth) : 0 < d.max := by
  obtain h | h := d.max_cases <;> omega

theorem Depth.bins_le_max (d : Depth) : 512 ≤ d.max := by
  obtain h | h := d.max_cases <;> omega

theorem ppmCode_of_nonneg (d : Depth) {x : Int} (h : 0 ≤ x) :
    ppmCode d x = 511 + binIndex 512 d.max x := if_pos h

theorem ppmCode_of_neg (d : Depth) {x : Int} (h : x < 0) :
    ppmCode d x = 510 - binIndex 510 d.max (-x - 1) := if_neg h.not_ge

theorem ppmSample_of_high (d : Depth) {c : Nat} (h : 511 ≤ min c 1023) :
    ppmSample d c = binStart 512 d.max ((min c 1023 : Nat) - 511) := if_pos (by omega)

theorem ppmSample_of_low (d : Depth) {c : Nat} (h : min c 1023 ≤ 510) :
    ppmSample d c = -1 - binStart 510 d.max (510 - (min c 1023 : Nat)) := if_neg (by omega)

/-- R112: the codes of the samples from 0 up. -/
theorem ppmCode_mem_high {d : Depth} {x : Int} (h : 0 ≤ x) (hx : x ≤ d.max) :
    511 ≤ ppmCode d x ∧ ppmCode d x ≤ 1023 := by
  have hlo := binIndex_nonneg (n := 512) (by norm_num) d.max_pos h
  have hhi := binIndex_le (n := 512) (by norm_num) d.max_pos hx
  rw [ppmCode_of_nonneg d h]
  omega

/-- R112: the codes of the negative samples. -/
theorem ppmCode_mem_low {d : Depth} {x : Int} (hx : d.min ≤ x) (h : x < 0) :
    0 ≤ ppmCode d x ∧ ppmCode d x ≤ 510 := by
  have hmin := d.min_eq
  have hlo := binIndex_nonneg (n := 510) (y := -x - 1) (by norm_num) d.max_pos (by omega)
  have hhi := binIndex_le (n := 510) (y := -x - 1) (by norm_num) d.max_pos (by omega)
  rw [ppmCode_of_neg d h]
  omega

theorem ppmCode_mem {d : Depth} {x : Int} (hmin : d.min ≤ x) (hmax : x ≤ d.max) :
    0 ≤ ppmCode d x ∧ ppmCode d x ≤ 1023 := by
  obtain h | h := le_or_gt 0 x
  · have := ppmCode_mem_high h hmax
    omega
  · have := ppmCode_mem_low hmin h
    omega

/-- R113: the samples of the codes from 511 up. -/
theorem ppmSample_mem_high (d : Depth) {c : Nat} (h : 511 ≤ min c 1023) :
    0 ≤ ppmSample d c ∧ ppmSample d c ≤ d.max := by
  rw [ppmSample_of_high d h]
  exact ⟨binStart_nonneg (by norm_num) d.max_pos (by omega),
    binStart_le (by norm_num) d.max_pos (by omega)⟩

/-- R113: the samples of the codes up to 510. -/
theorem ppmSample_mem_low (d : Depth) {c : Nat} (h : min c 1023 ≤ 510) :
    d.min ≤ ppmSample d c ∧ ppmSample d c < 0 := by
  have hlo := binStart_nonneg (n := 510) (M := d.max) (k := 510 - (min c 1023 : Nat))
    (by norm_num) d.max_pos (by omega)
  have hhi := binStart_le (n := 510) (M := d.max) (k := 510 - (min c 1023 : Nat))
    (by norm_num) d.max_pos (by omega)
  have hmin := d.min_eq
  rw [ppmSample_of_low d h]
  omega

theorem ppmSample_mem (d : Depth) (c : Nat) : d.min ≤ ppmSample d c ∧ ppmSample d c ≤ d.max := by
  have hmin := d.min_eq
  have hmax := d.max_pos
  obtain h | h := le_or_gt 511 (min c 1023)
  · have := ppmSample_mem_high d h
    omega
  · have := ppmSample_mem_low d (Nat.le_of_lt_succ h)
    omega

/-- Settles O10: the floor is that of `binIndex`. -/
theorem encodeFormula : Obligations.EncodeFormula := by
  intro d x hmin hmax
  refine ⟨fun h => ⟨_, ppmCode_of_nonneg d h, ?_⟩, fun h => ⟨_, ppmCode_of_neg d h, ?_⟩⟩
  · exact ⟨binIndex_mul_le d.max_pos, lt_binIndex_add_one_mul d.max_pos, ppmCode_mem_high h hmax⟩
  · exact ⟨binIndex_mul_le d.max_pos, lt_binIndex_add_one_mul d.max_pos, ppmCode_mem_low hmin h⟩

/-! ### Decoding -/

/-- R113: the decoder is a right inverse of the encoder, but for the code 1024. -/
theorem ppmCode_ppmSample (d : Depth) (c : Nat) :
    ppmCode d (ppmSample d c) = (min c 1023 : Nat) := by
  have hbins := d.bins_le_max
  obtain h | h := le_or_gt 511 (min c 1023)
  · obtain ⟨hnonneg, -⟩ := ppmSample_mem_high d h
    rw [ppmCode_of_nonneg d hnonneg, ppmSample_of_high d h,
      binIndex_binStart (by norm_num) hbins]
    omega
  · have hlow := Nat.le_of_lt_succ h
    obtain ⟨-, hneg⟩ := ppmSample_mem_low d hlow
    rw [ppmCode_of_neg d hneg, ppmSample_of_low d hlow, neg_sub, sub_neg_eq_add,
      add_sub_cancel_right, binIndex_binStart (by norm_num) (by omega)]
    omega

/-- The sample of a sample's own code, from 0 up. -/
theorem ppmSample_ppmCode_of_nonneg {d : Depth} {x : Int} (h : 0 ≤ x) (hx : x ≤ d.max) :
    ppmSample d (ppmCode d x).toNat = binStart 512 d.max (binIndex 512 d.max x) := by
  have hmem := ppmCode_mem_high h hx
  have hcode := ppmCode_of_nonneg d h
  rw [ppmSample_of_high d (by omega)]
  congr 1
  omega

/-- The sample of a negative sample's own code. -/
theorem ppmSample_ppmCode_of_neg {d : Depth} {x : Int} (hx : d.min ≤ x) (h : x < 0) :
    ppmSample d (ppmCode d x).toNat = -1 - binStart 510 d.max (binIndex 510 d.max (-x - 1)) := by
  have hmem := ppmCode_mem_low hx h
  have hcode := ppmCode_of_neg d h
  rw [ppmSample_of_low d (by omega)]
  congr 2
  omega

/-- The error of the codec for the samples from 0 up: towards zero, by less than a bin (R114). -/
theorem roundTrip_error_of_nonneg {d : Depth} {x : Int} (h : 0 ≤ x) (hx : x ≤ d.max) :
    -((d.max - 1) / 512) ≤ ppmSample d (ppmCode d x).toNat - x ∧
      ppmSample d (ppmCode d x).toNat - x ≤ 0 := by
  have hle := binStart_binIndex_le (n := 512) (y := x) (by norm_num) d.max_pos
  have hbin := sub_binStart_binIndex_le (n := 512) (y := x) (by norm_num) d.max_pos
  rw [ppmSample_ppmCode_of_nonneg h hx]
  omega

/-- The error of the codec for the negative samples: towards zero, by less than a bin (R114). -/
theorem roundTrip_error_of_neg {d : Depth} {x : Int} (hx : d.min ≤ x) (h : x < 0) :
    0 ≤ ppmSample d (ppmCode d x).toNat - x ∧
      ppmSample d (ppmCode d x).toNat - x ≤ (d.max - 1) / 510 := by
  have hle := binStart_binIndex_le (n := 510) (y := -x - 1) (by norm_num) d.max_pos
  have hbin := sub_binStart_binIndex_le (n := 510) (y := -x - 1) (by norm_num) d.max_pos
  rw [ppmSample_ppmCode_of_neg hx h]
  omega

/-- The codec never moves a sample away from zero. -/
theorem abs_roundTrip_le {d : Depth} {x : Int} (hmin : d.min ≤ x) (hmax : x ≤ d.max) :
    |ppmSample d (ppmCode d x).toNat| ≤ |x| := by
  obtain h | h := le_or_gt 0 x
  · have hcode := ppmCode_mem_high h hmax
    obtain ⟨hnonneg, -⟩ := ppmSample_mem_high d (c := (ppmCode d x).toNat) (by omega)
    obtain ⟨-, herr⟩ := roundTrip_error_of_nonneg h hmax
    exact abs_le_abs_of_nonneg hnonneg (by omega)
  · have hcode := ppmCode_mem_low hmin h
    obtain ⟨-, hneg⟩ := ppmSample_mem_low d (c := (ppmCode d x).toNat) (by omega)
    obtain ⟨herr, -⟩ := roundTrip_error_of_neg hmin h
    exact abs_le_abs_of_nonpos hneg.le (by omega)

theorem ppmSample_min (d : Depth) (c : Nat) : ppmSample d (min c 1023) = ppmSample d c := by
  simp [ppmSample]

/-- Settles O12: the ceiling is that of `binStart`, and the sample of a code is that of every sample
with that code, so `abs_roundTrip_le` compares the two. -/
theorem decodeFormula : Obligations.DecodeFormula := by
  intro d c _
  obtain ⟨hmin, hmax⟩ := ppmSample_mem d c
  refine ⟨hmin, hmax, fun h => ?_, fun h => ⟨_, ppmSample_of_low d h, ?_, ?_⟩,
    ppmCode_ppmSample d c, fun x hxmin hxmax hx => ?_⟩
  · rw [ppmSample_of_high d h, mul_comm, mul_comm 512]
    exact ⟨binStart_sub_one_mul_lt (by norm_num), le_binStart_mul (by norm_num)⟩
  · rw [mul_comm]
    exact binStart_sub_one_mul_lt (by norm_num)
  · rw [mul_comm 510]
    exact le_binStart_mul (by norm_num)
  · have hsample := abs_roundTrip_le hxmin hxmax
    rwa [hx, Int.toNat_natCast, ppmSample_min] at hsample

/-! ### The laws of R114 -/

theorem ppmCode_mono {d : Depth} {x y : Int} (hmin : d.min ≤ x) (h : x ≤ y) (hmax : y ≤ d.max) :
    ppmCode d x ≤ ppmCode d y := by
  obtain hx | hx := le_or_gt 0 x
  · rw [ppmCode_of_nonneg d hx, ppmCode_of_nonneg d (hx.trans h)]
    have := binIndex_mono (n := 512) (by norm_num) d.max_pos h
    omega
  obtain hy | hy := le_or_gt 0 y
  · have hlow := ppmCode_mem_low hmin hx
    have hhigh := ppmCode_mem_high hy hmax
    omega
  · rw [ppmCode_of_neg d hx, ppmCode_of_neg d hy]
    have := binIndex_mono (n := 510) (y := -y - 1) (z := -x - 1) (by norm_num) d.max_pos (by omega)
    omega

theorem ppmSample_mono (d : Depth) {c e : Nat} (h : c ≤ e) : ppmSample d c ≤ ppmSample d e := by
  obtain hc | hc := le_or_gt 511 (min c 1023)
  · rw [ppmSample_of_high d hc, ppmSample_of_high d (by omega)]
    exact binStart_mono (by norm_num) d.max_pos (by omega)
  have hc := Nat.le_of_lt_succ hc
  obtain he | he := le_or_gt 511 (min e 1023)
  · have hlow := ppmSample_mem_low d hc
    have hhigh := ppmSample_mem_high d he
    omega
  · have he := Nat.le_of_lt_succ he
    rw [ppmSample_of_low d hc, ppmSample_of_low d he]
    have := binStart_mono (n := 510) (M := d.max) (k := 510 - (min e 1023 : Nat))
      (l := 510 - (min c 1023 : Nat)) (by norm_num) d.max_pos (by omega)
    omega

theorem ppmCode_zero (d : Depth) : ppmCode d 0 = 511 := by
  cases d <;> decide

/-- The codec of R112 and R113 meets the four laws of R114. -/
theorem codecLaws : CodecLaws ppmCode ppmSample := by
  refine ⟨fun x hmin hmax => abs_le.2 ?_, fun _ _ _ => ppmCode_mono,
    fun d _ _ h _ => ppmSample_mono d h, fun d => .inl (ppmCode_zero d), by decide, by decide,
    fun _ _ h => ppmCode_mem_high h.le, fun _ _ => ppmCode_mem_low⟩
  obtain h | h := le_or_gt 0 x
  · have := roundTrip_error_of_nonneg (d := .d16) h hmax
    rw [Depth.max_d16] at this
    omega
  · have := roundTrip_error_of_neg (d := .d16) hmin h
    rw [Depth.max_d16] at this
    omega

/-- Settles O14: the bins are `MAX / 512` and `MAX / 510` wide, and the last samples of the first
bins on either side of zero have the worst errors. -/
theorem codecSatisfiesTheLaws : Obligations.CodecSatisfiesTheLaws := by
  refine ⟨codecLaws, ppmCode_zero .d16, fun x h hmax => ?_, fun x hmin h => ?_,
    fun x h hmax => abs_le.2 ?_, fun x hmin h => abs_le.2 ?_,
    ⟨63, by decide⟩, ⟨-65, by decide⟩, ⟨16383, by decide⟩, ⟨-16449, by decide⟩⟩
  · exact roundTrip_error_of_nonneg (d := .d16) h hmax
  · exact roundTrip_error_of_neg (d := .d16) hmin h
  · have := roundTrip_error_of_nonneg (d := .d24) h hmax
    rw [Depth.max_d24] at this
    omega
  · have := roundTrip_error_of_neg (d := .d24) hmin h
    rw [Depth.max_d24] at this
    omega

end Sys2Proof.Machine
end

section
/-! ## The codec commands (R8, R110, R115 to R120) -/

namespace Sys2Proof.Machine

/-! ### Integers as words (R14) -/

theorem toU32_toNat {i : Int} (h0 : 0 ≤ i) (h : i < 2 ^ 32) : ((toU32 i).toNat : Int) = i := by
  rw [toU32, BitVec.toNat_ofInt, Int.toNat_of_nonneg (Int.emod_nonneg _ (by norm_num))]
  exact Int.emod_eq_of_lt h0 h

theorem toU32_toInt {i : Int} (hlo : -2 ^ 31 ≤ i) (hhi : i < 2 ^ 31) : (toU32 i).toInt = i := by
  rw [toU32, BitVec.toInt_ofInt]
  exact Int.bmod_eq_of_le (by omega) (by omega)

theorem toU32_add (i j : Int) : toU32 (i + j) = toU32 i + toU32 j := BitVec.ofInt_add i j

theorem toU32_sub (i j : Int) : toU32 (i - j) = toU32 i - toU32 j :=
  eq_sub_of_add_eq (by rw [← toU32_add, sub_add_cancel])

@[simp] theorem toU32_sext32 (w : Word) : toU32 (sext32 w) = w := BitVec.ofInt_toInt

/-- Every sample of either resolution fits in a word with its sign (R8). -/
theorem toU32_toInt_of_mem {d : Depth} {i : Int} (hmin : d.min ≤ i) (hmax : i ≤ d.max) :
    (toU32 i).toInt = i := by
  have hdmin := d.min_eq
  obtain h | h := d.max_cases <;> exact toU32_toInt (by omega) (by omega)

/-! ### What the commands answer in range and out of range (R110, R111, R115 to R117, R120) -/

theorem codeOk_iff (c : Word) : codeOk c = true ↔ c.toNat ≤ 1024 := by
  simp [codeOk]

theorem execPpmEncode_in_range {x : Word} {s : State} (h : sampleOk s.fmtDepth x = true) :
    execPpmEncode x s =
      .next ((s.count .converted).respond .ok (toU32 (ppmCode s.fmtDepth x.toInt))) := if_pos h

theorem execPpmEncode_out_of_range {x : Word} {s : State} (h : sampleOk s.fmtDepth x = false) :
    execPpmEncode x s = .next (s.respond .erange 0) := if_neg (Bool.not_eq_true _ ▸ h)

theorem execPpmDecode_in_range {c : Word} {s : State} (h : c.toNat ≤ 1024) :
    execPpmDecode c s =
      .next ((s.count .converted).respond .ok (toU32 (ppmSample s.fmtDepth c.toNat))) :=
  if_pos ((codeOk_iff c).2 h)

theorem execPpmDecode_out_of_range {c : Word} {s : State} (h : 1024 < c.toNat) :
    execPpmDecode c s = .next (s.respond .erange 0) := if_neg (mt (codeOk_iff c).1 h.not_ge)

theorem execDownmix_in_range {l r : Word} {s : State} (hl : sampleOk s.fmtDepth l = true)
    (hr : sampleOk s.fmtDepth r = true) :
    execDownmix l r s = .next (s.respond .ok (toU32 (l.toInt / 2 + r.toInt / 2))) :=
  if_pos (by rw [hl, hr]; rfl)

theorem execDownmix_out_of_range {l r : Word} {s : State}
    (h : sampleOk s.fmtDepth l = false ∨ sampleOk s.fmtDepth r = false) :
    execDownmix l r s = .next (s.respond .erange 0) := by
  obtain h | h := h <;> simp [execDownmix, h]

theorem execPdmStep_out_of_range {x : Word} {s : State} (h : sampleOk s.fmtDepth x = false) :
    execPdmStep x s = .next (s.respond .erange 0) := if_neg (Bool.not_eq_true _ ▸ h)

/-- Settles O15: each command's own range check. -/
theorem samplesOutOfRangeAreRejected : Obligations.SamplesOutOfRangeAreRejected := by
  refine ⟨Depth.max_d16, rfl, Depth.max_d24, rfl, fun _ => ⟨rfl, rfl⟩, fun s x y h => ?_⟩
  have hx := (sampleOk_eq_false_iff s.fmtDepth x).2 h
  exact ⟨execPpmEncode_out_of_range hx, execPdmStep_out_of_range hx,
    execDownmix_out_of_range (.inl hx), execDownmix_out_of_range (.inr hx)⟩

/-! ### PPM_ENCODE and PPM_DECODE -/

/-- A command that reads A alone decodes alike for every B (R93). -/
theorem decode_of_encode_a {op sel : BitVec 8} {a : Word} {i : Instr}
    (hop : op ∉ ([0x02, 0x12] : List (BitVec 8))) (henc : encode i = ⟨op ++ sel, a, 0⟩) (b : Word) :
    decode ⟨op ++ sel, a, b⟩ = .ok i := by
  obtain ⟨hb, -⟩ := unusedOperandsAreIgnored op sel a b a 0
  rw [hb hop, ← henc, decode_encode]

/-- Settles O11: the code is at most 1023, so its word is its number. -/
theorem ppmEncodeAnswersTheCode : Obligations.PpmEncodeAnswersTheCode := by
  refine fun s a b => ⟨decode_of_encode_a (op := 0x10) (sel := 0) (by decide) rfl b,
    fun hmin hmax => ?_, fun h => ?_⟩
  · obtain ⟨hlo, hhi⟩ := ppmCode_mem hmin hmax
    exact ⟨_, toU32_toNat hlo (by omega),
      execPpmEncode_in_range ((sampleOk_iff _ a).2 ⟨hmin, hmax⟩)⟩
  · exact execPpmEncode_out_of_range ((sampleOk_eq_false_iff _ a).2 h)

/-- Settles O13: the sample is in range (`ppmSample_mem`), so its word is its number. -/
theorem ppmDecodeAnswersTheSample : Obligations.PpmDecodeAnswersTheSample := by
  refine ⟨fun s a b => ⟨decode_of_encode_a (op := 0x11) (sel := 0) (by decide) rfl b,
    fun h => ?_, fun h => ?_⟩, fun d => by cases d <;> decide, by decide, by decide⟩
  · obtain ⟨hmin, hmax⟩ := ppmSample_mem s.fmtDepth a.toNat
    exact ⟨_, toU32_toInt_of_mem hmin hmax, execPpmDecode_in_range h⟩
  · exact execPpmDecode_out_of_range h

/-! ### DOWNMIX -/

theorem downmix_mem {d : Depth} {l r : Int} (hlmin : d.min ≤ l) (hlmax : l ≤ d.max)
    (hrmin : d.min ≤ r) (hrmax : r ≤ d.max) :
    d.min ≤ l / 2 + r / 2 ∧ l / 2 + r / 2 ≤ d.max - 1 := by
  have hmin := d.min_eq
  obtain h | h := d.max_cases <;> omega

/-- Settles O16: the halves are the floors, whose sum is in range (`downmix_mem`). -/
theorem downmixAddsTheHalves : Obligations.DownmixAddsTheHalves := by
  refine fun s l r => ⟨decode_encode (.downmix l r), fun hlmin hlmax hrmin hrmax => ?_, fun h => ?_⟩
  · obtain ⟨hmin, hmax⟩ := downmix_mem hlmin hlmax hrmin hrmax
    have hv : (toU32 (l.toInt / 2 + r.toInt / 2)).toInt = l.toInt / 2 + r.toInt / 2 :=
      toU32_toInt_of_mem hmin (by omega)
    exact ⟨_, l.toInt / 2, r.toInt / 2, by omega, by omega, hv, by rwa [hv], by rwa [hv],
      execDownmix_in_range ((sampleOk_iff _ l).2 ⟨hlmin, hlmax⟩)
        ((sampleOk_iff _ r).2 ⟨hrmin, hrmax⟩)⟩
  · refine execDownmix_out_of_range ?_
    rwa [sampleOk_eq_false_iff, sampleOk_eq_false_iff, or_assoc]

/-! ### PDM_STEP -/

/-- R118: the integrators in 32-bit arithmetic. -/
theorem Pdm.integrate_eq (d : Depth) (x : Word) (p : Pdm) {i1 i2 prev : Word} {bit : Bool}
    (hi1 : i1 = p.i1 + x - p.prev) (hi2 : i2 = p.i2 + i1 - p.prev)
    (hbit : bit = decide (0 ≤ i2.toInt)) (hprev : prev.toInt = if bit then d.max else -d.max) :
    p.integrate d (sext32 x) = (bit, ⟨i1, i2, prev, p.acc, p.cnt⟩) := by
  have h1 : toU32 (sext32 p.i1 + sext32 x - sext32 p.prev) = i1 := by
    simp only [toU32_sub, toU32_add, toU32_sext32, hi1]
  have h2 : toU32 (sext32 p.i2 + sext32 i1 - sext32 p.prev) = i2 := by
    simp only [toU32_sub, toU32_add, toU32_sext32, hi2]
  have h3 : toU32 (if bit then d.max else -d.max) = prev := by
    rw [← hprev]
    exact toU32_sext32 prev
  simp only [Pdm.integrate, h1, h2, ← hbit, h3]

/-- R119: a bit before the 32nd. -/
theorem Pdm.pack_of_lt {bit : Bool} {p : Pdm} {n : Fin 32} (h : n.val = p.cnt.val + 1) :
    p.pack bit = (none, { p with acc := p.acc ||| bitField bit p.cnt.val, cnt := n }) := by
  have hne : p.cnt ≠ 31 := by omega
  have hsucc : p.cnt + 1 = n := by omega
  simp only [Pdm.pack, hne, if_false, hsucc]

/-- R119: the 32nd bit. -/
theorem Pdm.pack_of_last {bit : Bool} {p : Pdm} (h : p.cnt.val = 31) :
    p.pack bit =
      (some (p.acc ||| bitField bit p.cnt.val), { p with acc := 0, cnt := 0 }) :=
  if_pos (Fin.ext h)

/-- R120: an accepted sample whose bit does not complete the word. -/
theorem execPdmStep_ok {x : Word} {s : State} {bit : Bool} {p q : Pdm}
    (h : sampleOk s.fmtDepth x = true) (hint : s.pdm.integrate s.fmtDepth (sext32 x) = (bit, p))
    (hpack : p.pack bit = (none, q)) :
    execPdmStep x s =
      .next (({ s with pdm := q }.count .converted).respond .ok (bitField bit 0)) := by
  simp only [execPdmStep, h, if_true, hint, hpack]

/-- R120: an accepted sample whose bit completes the word. -/
theorem execPdmStep_word {x w : Word} {s : State} {bit : Bool} {p q : Pdm}
    (h : sampleOk s.fmtDepth x = true) (hint : s.pdm.integrate s.fmtDepth (sext32 x) = (bit, p))
    (hpack : p.pack bit = (some w, q)) :
    execPdmStep x s = .next (({ s with pdm := q }.count .converted).respond .pdmWord w) := by
  simp only [execPdmStep, h, if_true, hint, hpack]

/-- Settles O17: the integrators by `Pdm.integrate_eq`, the word by the two ways of packing a bit. -/
theorem pdmStepIntegratesAndPacks : Obligations.PdmStepIntegratesAndPacks := by
  refine fun s x b => ⟨decode_of_encode_a (op := 0x13) (sel := 0) (by decide) rfl b,
    fun hmin hmax i1 i2 prev acc bit hi1 hi2 hbit hprev hacc => ?_, fun h => ?_⟩
  · have hok := (sampleOk_iff s.fmtDepth x).2 ⟨hmin, hmax⟩
    have hint := s.pdm.integrate_eq s.fmtDepth x hi1 hi2 hbit hprev
    subst hacc
    exact ⟨fun n hn => execPdmStep_ok hok hint (Pdm.pack_of_lt hn),
      fun hlast => execPdmStep_word hok hint (Pdm.pack_of_last hlast)⟩
  · exact execPdmStep_out_of_range ((sampleOk_eq_false_iff _ x).2 h)

end Sys2Proof.Machine
end

section
/-! ## The pulse generator and detector, and the order of the widths (R140 to R147, R161) -/

namespace Sys2Proof.Machine

/-! ### The generator's steps (R140, R142) -/

theorem State.genStart_of_idle {s : State} {w : Word} {rest : List Word}
    (hidle : s.genState = .idle) (hq : s.genQ = w :: rest) :
    s.genStart = { s with genQ := rest, genCur := w, genState := .low, pinOut := false } := by
  simp only [State.genStart, hidle, hq]

theorem State.genStart_of_not_enabled {s : State} (h : s.genState = .low ∨ s.genQ = []) :
    s.genStart = s := by
  unfold State.genStart
  split
  case h_1 hidle hq => obtain hlow | hnil := h <;> simp_all
  case h_2 => rfl

theorem State.genEnd_of_low {s : State} (h : s.genState = .low) :
    s.genEnd =
      { s with pinOut := true, genState := .idle, pulses := s.pulses ++ [s.genCur] }.count
        .genPulses := by
  simp only [State.genEnd, h]

theorem State.genEnd_of_idle {s : State} (h : s.genState = .idle) : s.genEnd = s := by
  simp only [State.genEnd, h]

/-- All that the start step can do: start the oldest width, or nothing where it is not enabled. -/
theorem State.genStart_cases (s : State) :
    (∃ w rest, s.genState = .idle ∧ s.genQ = w :: rest ∧
      s.genStart = { s with genQ := rest, genCur := w, genState := .low, pinOut := false }) ∨
    s.genStart = s := by
  cases hg : s.genState with
  | low => exact .inr (State.genStart_of_not_enabled (.inl hg))
  | idle =>
    cases hq : s.genQ with
    | nil => exact .inr (State.genStart_of_not_enabled (.inr hq))
    | cons w rest => exact .inl ⟨w, rest, rfl, rfl, State.genStart_of_idle hg hq⟩

/-- Settles O20: one lemma for each step, enabled and not. -/
theorem generatorStepsStartAndEndAPulse : Obligations.GeneratorStepsStartAndEndAPulse := fun _ =>
  ⟨fun _ _ hidle hq => congrArg _ (State.genStart_of_idle hidle hq),
    fun h => congrArg _ (State.genStart_of_not_enabled h),
    fun h => congrArg _ (State.genEnd_of_low h), fun h => congrArg _ (State.genEnd_of_idle h)⟩

/-! ### Captures and ticks (R145, R161) -/

theorem State.capture_of_space {s : State} (m : Word) (h : s.detQ.length < s.cfg.detQDepth) :
    s.capture m = { s with detQ := s.detQ ++ [m] }.count .detCaptures := if_pos h

theorem State.capture_of_full {s : State} (m : Word) (h : s.cfg.detQDepth ≤ s.detQ.length) :
    s.capture m = (s.count .detCaptures).count .detDrop := if_neg h.not_gt

theorem State.tick_of_pending {s : State} (h : s.tickPending = true) :
    s.tick = s.count .tickOverrun := if_pos h

theorem State.tick_of_not_pending {s : State} (h : s.tickPending = false) :
    s.tick = { s with tickPending := true } := if_neg (Bool.not_eq_true _ ▸ h)

/-- Settles O21: one lemma for each case of a capture and of a tick. -/
theorem captureAndTickNeverBlock : Obligations.CaptureAndTickNeverBlock := fun _ m =>
  ⟨fun h => congrArg _ (State.capture_of_space m h),
    fun h => congrArg _ (State.capture_of_full m h),
    fun h => congrArg _ (State.tick_of_pending h),
    fun h => congrArg _ (State.tick_of_not_pending h)⟩

/-! ### GEN_PUSH and DET_POP (R146, R147) -/

theorem State.genSpace_iff (s : State) : s.genSpace = true ↔ s.genQ.length < s.cfg.genQDepth :=
  decide_eq_true_iff

theorem execGenPush_zero (s : State) : execGenPush 0 s = .next (s.respond .erange 0) := if_pos rfl

theorem execGenPush_of_space {w : Word} {s : State} (hw : w ≠ 0)
    (h : s.genQ.length < s.cfg.genQDepth) :
    execGenPush w s = .next ((s.genEnqueue w).respond .ok 0) :=
  (if_neg hw).trans (if_pos (s.genSpace_iff.2 h))

/-- While GEN_Q is full the command waits (R256). -/
theorem execGenPush_of_full {w : Word} {s : State} (hw : w ≠ 0)
    (h : s.cfg.genQDepth ≤ s.genQ.length) : execGenPush w s = .next s :=
  (if_neg hw).trans (if_neg (mt s.genSpace_iff.1 h.not_gt))

theorem execDetPop_of_nil {s : State} (h : s.detQ = []) :
    execDetPop s = .next (s.respond .empty 0) := by
  simp only [execDetPop, h]

theorem execDetPop_of_cons {s : State} {m : Word} {rest : List Word} (h : s.detQ = m :: rest) :
    execDetPop s = .next ({ s with detQ := rest }.respond .ok m) := by
  simp only [execDetPop, h]

/-- Settles O18: one lemma for each branch of GEN_PUSH. -/
theorem genPushQueuesOrWaits : Obligations.GenPushQueuesOrWaits := fun s _ b =>
  ⟨decode_of_encode_a (op := 0x20) (sel := 0) (by decide) rfl b, execGenPush_zero s,
    execGenPush_of_space, execGenPush_of_full⟩

/-- Settles O19: the word reads no operand, so it decodes as the encoding of DET_POP does. -/
theorem detPopTakesTheOldestMeasurement : Obligations.DetPopTakesTheOldestMeasurement := by
  refine fun s a b => ⟨?_, execDetPop_of_nil, fun _ _ => execDetPop_of_cons⟩
  obtain ⟨-, hignored⟩ := unusedOperandsAreIgnored 0x21 0 a b 0 0
  exact (hignored (by decide)).trans (decode_encode .detPop)

/-! ### Who writes GEN_Q: GEN_PUSH, TX_TICK and the generator's start step -/

/-- If the outcome is a next state, GEN_Q is that of `s`. -/
def KeepsGenQ (s : State) (r : Result) : Prop := ∀ t, r = .next t → t.genQ = s.genQ

@[simp] theorem keepsGenQ_next {s t : State} : KeepsGenQ s (.next t) ↔ t.genQ = s.genQ := by
  simp [KeepsGenQ]

@[simp] theorem keepsGenQ_fault (s : State) (e : Fault) : KeepsGenQ s (.fault e) := by
  simp [KeepsGenQ]

theorem keepsGenQ_orFault {α : Type} {s : State} {x : Except Fault α} {f : α → Result}
    (h : ∀ v, x = .ok v → KeepsGenQ s (f v)) : KeepsGenQ s (orFault x f) := by
  cases x with
  | ok v => exact h v rfl
  | error e => exact keepsGenQ_fault s e

@[simp] theorem State.applyFormat_genQ (s : State) (rate : Rate) (depth : Depth) :
    (s.applyFormat rate depth).genQ = s.genQ := rfl

theorem State.ringAppend_genQ {s s' : State} {v : Word} {appended : Bool}
    (h : s.ringAppend v = .ok (appended, s')) : s'.genQ = s.genQ := by
  rw [State.ringAppend_eq] at h
  split at h
  · cases h; rfl
  · split at h <;> cases h
    rfl

theorem State.forward_keepsGenQ (s : State) (c : Word) : KeepsGenQ s (s.forward c) := by
  obtain ⟨-, -, h⟩ | ⟨-, -, h⟩ | ⟨-, -, -, h⟩ | ⟨-, -, -, h⟩ | ⟨-, -, -, h⟩ :=
    s.forward_cases c <;> simp [h]

theorem State.forwardDone_genQ (s : State) (p : PortId) (v : Word) :
    (s.forwardDone p v).genQ = s.genQ := by
  unfold State.forwardDone
  split <;> simp

theorem State.tick_genQ (s : State) : s.tick.genQ = s.genQ := by
  unfold State.tick
  split <;> rfl

theorem State.capture_genQ (s : State) (m : Word) : (s.capture m).genQ = s.genQ := by
  unfold State.capture
  dsimp only
  split <;> rfl

theorem State.genEnd_genQ (s : State) : s.genEnd.genQ = s.genQ := by
  unfold State.genEnd
  split <;> rfl

/-- Every command but GEN_PUSH leaves GEN_Q alone. -/
theorem exec_keepsGenQ {i : Instr} (hi : ∀ w, i ≠ .genPush w) (s : State) :
    KeepsGenQ s (exec i s) := by
  cases i with
  | genPush w => exact absurd rfl (hi w)
  | nop | statsClear => simp [exec, execNop, execStatsClear]
  | csrRead | setFormat | ppmEncode | ppmDecode | downmix | detPop | rxCorrect =>
    simp only [exec, execCsrRead, execSetFormat, execPpmEncode, execPpmDecode, execDownmix,
      execDetPop, execRxCorrect]
    split <;> simp
  | dbBegin | dbCommit | fifoPush | fifoPop | ringFlush =>
    simp only [exec, execDbBegin, execDbCommit, execFifoPush, execFifoPop, execRingFlush]
    split
    · simp
    · split <;> simp
  | pdmStep x =>
    simp only [exec, execPdmStep]
    split
    · split <;> simp
    · simp
  | rxPoll =>
    simp only [exec, execRxPoll]
    split
    · simp
    · split
      · exact State.forward_keepsGenQ _ _
      · simp
  | dbPut j x =>
    simp only [exec, execDbPut]
    split
    · simp
    · split
      · simp
      · split
        · simp
        · exact keepsGenQ_orFault fun _ _ => by simp
  | dbGet j =>
    cases j with
    | tx => simp [exec, execDbGet]
    | rx =>
      simp only [exec, execDbGet]
      split
      · simp
      · split
        · simp
        · exact keepsGenQ_orFault fun _ _ => by simp
  | ringAppend w =>
    simp only [exec, execRingAppend]
    split
    · simp
    · refine keepsGenQ_orFault fun ⟨appended, s'⟩ h => ?_
      have hs' := State.ringAppend_genQ h
      cases appended <;> simp [hs']
  | ringPop =>
    simp only [exec, execRingPop]
    split
    · simp
    · split
      · simp
      · exact keepsGenQ_orFault fun _ _ => by simp

/-! ### Outside the generator's steps GEN_Q only grows at its end -/

theorem execGenPush_genQ_grows {w : Word} {s t : State} (h : execGenPush w s = .next t) :
    s.genQ <+: t.genQ := by
  by_cases hw : w = 0
  · subst hw
    rw [execGenPush_zero] at h
    cases h; simp
  · obtain hspace | hfull := Nat.lt_or_ge s.genQ.length s.cfg.genQDepth
    · rw [execGenPush_of_space hw hspace] at h
      cases h; simp
    · rw [execGenPush_of_full hw hfull] at h
      cases h; simp

theorem exec_genQ_grows {i : Instr} {s t : State} (h : exec i s = .next t) :
    s.genQ <+: t.genQ := by
  by_cases hi : ∃ w, i = .genPush w
  · obtain ⟨w, rfl⟩ := hi
    exact execGenPush_genQ_grows h
  · rw [exec_keepsGenQ (fun w hw => hi ⟨w, hw⟩) s t h]

theorem takeTick_genQ_grows {s t : State} (h : takeTick s = .next t) : s.genQ <+: t.genQ := by
  obtain ⟨_, _, -, -, -, hs⟩ | ⟨_, -, -, -, hs⟩ | ⟨-, -, hs⟩ | ⟨-, hs⟩ := takeTick_cases s <;>
    rw [hs] at h <;> cases h <;> simp

theorem portStep_genQ_grows {p : PortId} {s t : State} (h : portStep p s = .next t) :
    s.genQ <+: t.genQ := by
  obtain ⟨-, hp⟩ | ⟨v, -, -, hp⟩ | ⟨x, i, -, -, -, -, hp⟩ | ⟨x, r, -, -, -, -, hp⟩ |
    ⟨-, -, -, hp⟩ := portStep_cases p s <;> rw [hp] at h
  case inr.inr.inl => simpa using exec_genQ_grows h
  all_goals cases h; simp [State.forwardDone_genQ]

/-- No event but a power-on and the start step takes a width out of GEN_Q. -/
theorem runEvent_genQ_grows {e : Event} {s t : State} (hpow : e ≠ .powerOn)
    (hstart : e ≠ .genStart) (h : runEvent e s = .next t) : s.genQ <+: t.genQ := by
  cases e with
  | command p x =>
    simp only [runEvent] at h
    split at h
    · simpa using portStep_genQ_grows h
    · cases h; simp
  | proceed p => exact portStep_genQ_grows h
  | txTick =>
    simp only [runEvent] at h
    split at h
    · exact takeTick_genQ_grows h
    · cases h; simp
  | tick => cases h; rw [s.tick_genQ]
  | capture m => cases h; rw [s.capture_genQ m]
  | genEnd => cases h; rw [s.genEnd_genQ]
  | genStart => exact absurd rfl hstart
  | powerOn => exact absurd rfl hpow

/-! ### The widths in their order (R143 (1) to (3)) -/

theorem State.widths_of_idle {s : State} (h : s.genState = .idle) :
    s.widths = s.pulses ++ s.genQ := by
  simp [State.widths, h]

theorem State.widths_of_low {s : State} (h : s.genState = .low) :
    s.widths = s.pulses ++ s.genCur :: s.genQ := by
  simp [State.widths, h]

/-- The start step moves the oldest waiting width into progress. -/
theorem State.genStart_widths (s : State) : s.genStart.widths = s.widths := by
  obtain ⟨w, rest, hidle, hq, h⟩ | h := s.genStart_cases
  · rw [State.widths_of_idle hidle, hq, h, State.widths_of_low rfl]
  · rw [h]

/-- The end step moves the width in progress to the completed ones. -/
theorem State.genEnd_widths (s : State) : s.genEnd.widths = s.widths := by
  cases hg : s.genState with
  | low =>
    rw [State.genEnd_of_low hg, State.widths_of_low hg, State.widths_of_idle rfl]
    simp
  | idle => rw [State.genEnd_of_idle hg]

/-- What is added at the end of GEN_Q is added at the end of the widths. -/
theorem State.widths_of_generator_eq {s t : State} {added : List Word}
    (hgen : t.owned.generator = s.owned.generator) (hq : t.genQ = s.genQ ++ added) :
    t.widths = s.widths ++ added := by
  obtain ⟨-, hstate, hcur, hpulses⟩ := State.generator_eq_iff.1 hgen
  simp only [State.widths, hstate, hcur, hpulses, hq, List.append_assoc]

theorem runEvent_generator {e : Event} {s t : State} (hpow : e ≠ .powerOn) (hstart : e ≠ .genStart)
    (hend : e ≠ .genEnd) (h : runEvent e s = .next t) :
    t.owned.generator = s.owned.generator := by
  obtain ⟨-, -, hgen⟩ := runEvent_writes_only_own hpow h
  exact hgen hstart hend

/-- The generator's steps keep the widths; every other event keeps the generator and lets GEN_Q only
grow at its end. -/
theorem runEvent_widths {e : Event} {s t : State} (hpow : e ≠ .powerOn)
    (h : runEvent e s = .next t) :
    ∃ added, t.widths = s.widths ++ added ∧ (e = .genStart ∨ e = .genEnd → added = []) := by
  by_cases hstart : e = .genStart
  · subst hstart; cases h
    exact ⟨[], by simp [s.genStart_widths], fun _ => rfl⟩
  by_cases hend : e = .genEnd
  · subst hend; cases h
    exact ⟨[], by simp [s.genEnd_widths], fun _ => rfl⟩
  obtain ⟨added, hq⟩ := runEvent_genQ_grows hpow hstart h
  exact ⟨added, State.widths_of_generator_eq (runEvent_generator hpow hstart hend h) hq.symm,
    fun hgen => (hgen.elim hstart hend).elim⟩

/-! ### The pin between pulses (R143 (4)) -/

/-- The pin is high exactly when the generator is idle. -/
def State.PinFollowsPhase (s : State) : Prop := s.pinOut = decide (s.genState = .idle)

theorem State.genStart_pin {s : State} (hs : s.PinFollowsPhase) : s.genStart.PinFollowsPhase := by
  obtain ⟨w, rest, -, -, h⟩ | h := s.genStart_cases <;> rw [h]
  · rfl
  · exact hs

theorem State.genEnd_pin {s : State} (hs : s.PinFollowsPhase) : s.genEnd.PinFollowsPhase := by
  cases hg : s.genState with
  | low => rw [State.genEnd_of_low hg]; rfl
  | idle => rwa [State.genEnd_of_idle hg]

theorem runEvent_pin {e : Event} {s t : State} (hs : s.PinFollowsPhase)
    (h : runEvent e s = .next t) : t.PinFollowsPhase := by
  by_cases hpow : e = .powerOn
  · subst hpow; cases h; rfl
  by_cases hstart : e = .genStart
  · subst hstart; cases h; exact State.genStart_pin hs
  by_cases hend : e = .genEnd
  · subst hend; cases h; exact State.genEnd_pin hs
  obtain ⟨hpin, hstate, -, -⟩ := State.generator_eq_iff.1 (runEvent_generator hpow hstart hend h)
  rwa [State.PinFollowsPhase, hpin, hstate]

theorem step_pin {s t : State} (hs : s.PinFollowsPhase) (h : step s = .next t) :
    t.PinFollowsPhase := by
  obtain ⟨e, rest, -, hstep⟩ | ⟨-, hstep⟩ := takeStep_cases s
  · exact runEvent_pin (s := { s with script := rest }) hs (hstep.symm.trans h)
  · exact runEvent_pin (s := { s with draws := s.draws + 1 }) hs (hstep.symm.trans h)

/-- Settles O52: the order of the widths by `runEvent_widths`, the pin by `step_pin`. -/
theorem generatorKeepsItsContract : Obligations.GeneratorKeepsItsContract :=
  ⟨fun _ _ _ => runEvent_widths, fun _ h => congrArg _ (State.genStart_of_not_enabled (.inl h)),
    fun _ _ => step_pin⟩

end Sys2Proof.Machine
end

section
/-! ## The scheduler and the receive correction (R148, R160 to R168, R183) -/

namespace Sys2Proof.Machine

/-! ### The calibration identity (R148, R160, R165, R288) -/

/-- R9: in an admitted build the width of every code a buffer holds is a u32. -/
theorem Config.minIntervalCycles_lt {c : Config} (h : c.wf = true) :
    c.minIntervalCycles + 1023 < 2 ^ 32 := by
  simp only [Config.wf, Config.minIntervalOk, Bool.and_eq_true, decide_eq_true_eq] at h
  omega

theorem widthSent_toNat {c : Config} {code : Word}
    (h : c.minIntervalCycles + code.toNat < 2 ^ 32) :
    (widthSent c code).toNat = c.minIntervalCycles + code.toNat := by
  rw [widthSent, natU32, BitVec.toNat_ofNat, Nat.mod_eq_of_lt h]

/-- The nominal law takes MIN_TACKT off the length of the low phase (R148). -/
theorem toNat_of_nominalMeasurement {c : Config} {l m : Word}
    (h : nominalMeasurement c l = some m) : (m.toNat : Int) = (l.toNat : Int) - c.minTackt := by
  simp only [nominalMeasurement, Option.ite_none_right_eq_some, Option.some.injEq] at h
  obtain ⟨⟨hnonneg, hlt⟩, rfl⟩ := h
  exact toU32_toNat hnonneg hlt

/-- The correction puts back the MIN_TACKT that the nominal law takes off (R148, R165). -/
theorem corr_of_nominalMeasurement {c : Config} {l m : Word}
    (h : nominalMeasurement c l = some m) : corr c m = (l.toNat : Int) - c.minIntervalCycles := by
  rw [corr, toNat_of_nominalMeasurement h, sub_add_cancel]

/-- Settles O26: the width does not wrap (`widthSent_toNat`), and the correction of its measurement
takes MIN_INTERVAL_CYCLES off it (`corr_of_nominalMeasurement`). -/
theorem correctionUndoesTheNominalMeasurement :
    Obligations.CorrectionUndoesTheNominalMeasurement := by
  intro c code m hwf hcode hm
  have hbuild := Config.minIntervalCycles_lt hwf
  have hwidth := widthSent_toNat (c := c) (code := code) (by omega)
  have hcorr : corr c m = (code.toNat : Int) := by
    rw [corr_of_nominalMeasurement hm, hwidth]
    omega
  have hzero : code ≠ 0 ↔ code.toNat ≠ 0 := BitVec.toNat_ne
  refine ⟨hwidth, hcorr, ?_⟩
  rw [accept_iff, hcorr, hzero]
  omega

/-! ### TX_TICK (R162, R183) -/

/-- `release(I)` as one update of buffer R (R183). -/
theorem DBuf.release_eq (d : DBuf) :
    d.release = { d.setBuf d.r ⟨(d.buf d.r).payload, 0, 0, false⟩ with r := !d.r } := rfl

theorem DBuf.take_of_more {cap : Nat} {d : DBuf} (hcap : (d.buf d.r).pos < cap)
    (hmore : (d.buf d.r).pos + 1 < (d.buf d.r).size) :
    d.take cap = .ok ((d.buf d.r).payload.get (d.buf d.r).pos,
      d.setBuf d.r { d.buf d.r with pos := (d.buf d.r).pos + 1 }) := by
  rw [DBuf.take_eq, if_pos hcap, if_neg hmore.ne]

theorem DBuf.take_of_last {cap : Nat} {d : DBuf} (hcap : (d.buf d.r).pos < cap)
    (hlast : (d.buf d.r).pos + 1 = (d.buf d.r).size) :
    d.take cap = .ok ((d.buf d.r).payload.get (d.buf d.r).pos,
      { d.setBuf d.r ⟨(d.buf d.r).payload, 0, 0, false⟩ with r := !d.r }) := by
  rw [DBuf.take_eq, if_pos hcap, if_pos hlast, DBuf.release_eq]

/-- A ready buffer with an element left sends the code that is taken from it. -/
theorem takeTick_of_take {s : State} {c : Word} {d : DBuf}
    (hready : (s.dbTx.buf s.dbTx.r).ready = true)
    (hleft : (s.dbTx.buf s.dbTx.r).pos < (s.dbTx.buf s.dbTx.r).size)
    (htake : s.dbTx.take s.cfg.dbCap = .ok (c, d)) :
    takeTick s = .next
      ({ s with tickPending := false, genQ := s.genQ ++ [widthSent s.cfg c], dbTx := d }.count
        .txCode) := by
  simp [takeTick, hready, hleft, htake, State.genEnqueue]

theorem takeTick_of_not_ready {s : State} (hready : (s.dbTx.buf s.dbTx.r).ready = false) :
    takeTick s = .next
      ({ s with tickPending := false, genQ := s.genQ ++ [silenceWidth s.cfg] }.count
        .txSilence) := by
  simp [takeTick, hready, State.genEnqueue]

theorem takeTick_of_exhausted {s : State} (hready : (s.dbTx.buf s.dbTx.r).ready = true)
    (hdone : (s.dbTx.buf s.dbTx.r).size ≤ (s.dbTx.buf s.dbTx.r).pos) :
    takeTick s = .next
      ({ s with
          tickPending := false, genQ := s.genQ ++ [silenceWidth s.cfg],
          dbTx := { s.dbTx.setBuf s.dbTx.r ⟨(s.dbTx.buf s.dbTx.r).payload, 0, 0, false⟩ with
            r := !s.dbTx.r } }.count .txSilence) := by
  simp [takeTick, hready, hdone.not_gt, State.genEnqueue, DBuf.release_eq]

theorem runEvent_txTick_of_enabled {s : State} (hpending : s.tickPending = true)
    (hspace : s.genQ.length < s.cfg.genQDepth) : runEvent .txTick s = takeTick s :=
  if_pos (s.txTickEnabled_iff.2 ⟨hpending, hspace⟩)

theorem runEvent_txTick_of_not_enabled {s : State}
    (h : s.tickPending = false ∨ s.cfg.genQDepth ≤ s.genQ.length) :
    runEvent .txTick s = .next s := by
  refine if_neg fun hen => ?_
  obtain ⟨hpending, hspace⟩ := s.txTickEnabled_iff.1 hen
  obtain hno | hfull := h
  · simp [hno] at hpending
  · omega

/-- Settles O22: a code by what is taken from the buffer (`takeTick_of_take`), silence from a buffer
that is not ready or exhausted. -/
theorem txTickSendsACodeOrSilence : Obligations.TxTickSendsACodeOrSilence := by
  refine fun s => ⟨runEvent_txTick_of_not_enabled, fun hpending hspace b hb => ?_⟩
  subst hb
  rw [runEvent_txTick_of_enabled hpending hspace]
  refine ⟨fun c w hready hleft hcap hc hw => ?_, fun w hw => ?_⟩
  · subst hc hw
    exact ⟨fun hmore => takeTick_of_take hready hleft (DBuf.take_of_more hcap hmore),
      fun hlast => takeTick_of_take hready hleft (DBuf.take_of_last hcap hlast)⟩
  · subst hw
    exact ⟨takeTick_of_not_ready, takeTick_of_exhausted⟩

/-! ### RX_CORRECT (R167) -/

theorem execRxCorrect_of_accept {m : Word} {s : State} (h : accept s.cfg m = true) :
    execRxCorrect m s = .next (s.respond .ok (toU32 (corr s.cfg m))) := if_pos h

theorem execRxCorrect_of_noise {m : Word} {s : State} (h : accept s.cfg m = false) :
    execRxCorrect m s = .next (s.respond .noise (toU32 (corr s.cfg m))) :=
  if_neg (Bool.not_eq_true _ ▸ h)

/-- Settles O23: OK exactly where the value is accepted (`accept_iff`). -/
theorem rxCorrectAnswersTheCorrection : Obligations.RxCorrectAnswersTheCorrection := by
  intro s m b c hc
  have hcorr : corr s.cfg m = c := hc.symm
  subst hcorr
  exact ⟨decode_of_encode_a (op := 0x28) (sel := 0) (by decide) rfl b,
    fun hpos hmax => execRxCorrect_of_accept ((accept_iff _ m).2 ⟨hpos, hmax⟩),
    fun h => execRxCorrect_of_noise ((accept_eq_false_iff _ m).2 h)⟩

/-! ### RX_POLL (R166, R204) -/

theorem execRxPoll_of_nil {s : State} (h : s.detQ = []) :
    execRxPoll s = .next (s.respond .empty 0) := by
  simp only [execRxPoll, h]

theorem execRxPoll_of_noise {s : State} {m : Word} {rest : List Word} (h : s.detQ = m :: rest)
    (hnoise : accept s.cfg m = false) :
    execRxPoll s = .next (({ s with detQ := rest }.count .rxNoise).respond .noise m) := by
  simp [execRxPoll, h, hnoise]

theorem execRxPoll_of_accept {s : State} {m : Word} {rest : List Word} (h : s.detQ = m :: rest)
    (haccept : accept s.cfg m = true) :
    execRxPoll s =
      ({ s with detQ := rest }.count .rxAccept).forward (toU32 (corr s.cfg m)) := by
  simp [execRxPoll, h, haccept]

theorem State.forward_of_fifo_free {s : State} (v : Word) (hmode : s.cfg.channelMode = .fifo)
    (hfree : s.fifoFull = false) :
    s.forward v = .next ({ s with fifoFull := true, fifoWord := v }.respond .ok v) := by
  simp [State.forward, hmode, hfree]

theorem State.forward_of_fifo_full {s : State} (v : Word) (hmode : s.cfg.channelMode = .fifo)
    (hfull : s.fifoFull = true) : s.forward v = .next (s.holdForward v) := by
  simp [State.forward, hmode, hfull]

theorem State.ringAppend_of_saturated {s : State} (v : Word) (hheld : s.ring.wheld = false)
    (hsem : s.ring.semEmpty = 0) : s.ringAppend v = .ok (false, s.count .ringDrop) := by
  rw [State.ringAppend_eq, if_pos ⟨hheld, hsem⟩]

/-- The writer holds an array with a place left, or can take one (R204). -/
def Ring.HasRoom (cap : Nat) (r : Ring) : Prop :=
  (r.wheld = true ∧ r.wcount < cap) ∨ (r.wheld = false ∧ r.semEmpty ≠ 0 ∧ 0 < cap)

theorem State.ringAppend_of_hasRoom {s : State} (v : Word) (h : s.ring.HasRoom s.cfg.ringCap) :
    s.ringAppend v =
      .ok (true, { s with ring := s.ring.writing.appended s.cfg.ringBatch v }) := by
  rw [State.ringAppend_eq]
  obtain ⟨hheld, hcount⟩ | ⟨hfree, hsem, hcap⟩ := h
  · simp [hheld, Ring.writing, hcount]
  · simp [hfree, hsem, Ring.writing, hcap]

theorem State.forward_of_ring_saturated {s : State} (v : Word)
    (hmode : s.cfg.channelMode = .ring) (hheld : s.ring.wheld = false)
    (hsem : s.ring.semEmpty = 0) :
    s.forward v = .next ((s.count .ringDrop).respond .busy v) := by
  simp [State.forward, hmode, State.ringAppend_of_saturated v hheld hsem]

theorem State.forward_of_ring_hasRoom {s : State} (v : Word)
    (hmode : s.cfg.channelMode = .ring) (hroom : s.ring.HasRoom s.cfg.ringCap) :
    s.forward v = .next
      ({ s with ring := s.ring.writing.appended s.cfg.ringBatch v }.respond .ok v) := by
  simp [State.forward, hmode, State.ringAppend_of_hasRoom v hroom]

@[simp] theorem otherPort_ne (p : PortId) : otherPort p ≠ p := by cases p <;> decide

@[simp] theorem State.withDetQ_port (s : State) (q : List Word) (p : PortId) :
    { s with detQ := q }.port p = s.port p := by cases p <;> rfl

/-- The hold of the active port is written in the ports only (R166). -/
theorem State.holdForward_except_ports (s : State) (v : Word) :
    { s.holdForward v with portA := s.portA, portB := s.portB } = s := by
  unfold State.holdForward
  cases s.active <;> rfl

theorem toU32_natCast_toNat (w : Word) : toU32 (w.toNat : Int) = w := by
  rw [toU32, BitVec.ofInt_natCast, BitVec.ofNat_toNat, BitVec.setWidth_eq]

/-- Settles O24: an accepted value goes the way `State.forward` gives it in the discipline of the
build. -/
theorem rxPollCorrectsAndForwards : Obligations.RxPollCorrectsAndForwards := by
  refine fun s a b => ⟨?_, execRxPoll_of_nil, fun m rest c hq hc => ?_⟩
  · obtain ⟨-, hignored⟩ := unusedOperandsAreIgnored 0x29 0 a b 0 0
    exact (hignored (by decide)).trans (decode_encode .rxPoll)
  have hcorr : corr s.cfg m = c := hc.symm
  subst hcorr
  refine ⟨fun h => execRxPoll_of_noise hq ((accept_eq_false_iff _ m).2 h),
    fun hpos hmax v hv => ?_⟩
  have hword : toU32 (corr s.cfg m) = v := by rw [← hv, toU32_natCast_toNat]
  have hexec := execRxPoll_of_accept hq ((accept_iff _ m).2 ⟨hpos, hmax⟩)
  rw [hword] at hexec
  refine ⟨fun hmode hfree => ?_, fun hmode hfull => ?_, fun hmode hheld hsem => ?_,
    fun hmode hroom => ?_⟩
  · exact hexec.trans (State.forward_of_fifo_free v hmode hfree)
  · refine ⟨_, hexec.trans (State.forward_of_fifo_full v hmode hfull), ?hold, ?cmd, ?responses,
      ?other, State.holdForward_except_ports _ v⟩
    all_goals simp
  · exact hexec.trans (State.forward_of_ring_saturated v hmode hheld hsem)
  · exact ⟨_, State.ringAppend_of_hasRoom v hroom,
      hexec.trans (State.forward_of_ring_hasRoom v hmode hroom)⟩

/-! ### The completion of a held RX_POLL (R168) -/

theorem State.forwardDone_of_full {s : State} (p : PortId) (v : Word) (h : s.fifoFull = true) :
    s.forwardDone p v = s := if_pos h

theorem State.forwardDone_of_free {s : State} (p : PortId) (v : Word) (h : s.fifoFull = false) :
    s.forwardDone p v =
      ({ s with fifoFull := true, fifoWord := v, active := p }.setPort p
        { s.port p with hold := .none }).respond .ok v :=
  if_neg (Bool.not_eq_true _ ▸ h)

theorem portStep_eq_forwardDone {s : State} {p : PortId} {v : Word}
    (htick : s.txTickEnabled = false) (hhold : (s.port p).hold = .fwd v) :
    portStep p s = .next (s.forwardDone p v) := by
  simp [portStep, htick, hhold]

/-- Settles O25: the port's step is the completion, which waits for the slot. -/
theorem heldForwardCompletesWhenTheSlotIsFree :
    Obligations.HeldForwardCompletesWhenTheSlotIsFree := by
  intro s p v htick hhold
  have hstep : runEvent (.proceed p) s = .next (s.forwardDone p v) :=
    portStep_eq_forwardDone htick hhold
  exact ⟨fun hfull => by rw [hstep, State.forwardDone_of_full p v hfull],
    fun hfree => by rw [hstep, State.forwardDone_of_free p v hfree]⟩

end Sys2Proof.Machine
end

section
/-! ## The double buffer with ready flags (R180 to R185) -/

namespace Sys2Proof.Machine

/-- A command without operands decodes alike for every A and B (R93). -/
theorem decode_of_encode_no_operands {op sel : BitVec 8} {i : Instr}
    (hop : op ∉ ([0x02, 0x10, 0x11, 0x12, 0x13, 0x20, 0x28, 0x31, 0x40, 0x48] : List (BitVec 8)))
    (henc : encode i = ⟨op ++ sel, 0, 0⟩) (a b : Word) : decode ⟨op ++ sel, a, b⟩ = .ok i := by
  obtain ⟨-, hignored⟩ := unusedOperandsAreIgnored op sel a b 0 0
  rw [hignored hop, ← henc, decode_encode]

/-! ### DB_BEGIN (R180) -/

theorem bitField_lo_zero (b : Bool) : bitField b 0 = if b then 1 else 0 := by
  cases b <;> rfl

theorem execDbBegin_of_open {i : Inst} {s : State} (ho : (s.db i).isOpen = true) :
    execDbBegin i s = .next (s.respond .eseq 0) := if_pos ho

/-- The consumer lags: the unit is rejected and counted. -/
theorem execDbBegin_of_ready {i : Inst} {s : State} (ho : (s.db i).isOpen = false)
    (hready : ((s.db i).buf (s.db i).w).ready = true) :
    execDbBegin i s = .next ((s.count (rejectCounter i)).respond .busy 0) := by
  simp [execDbBegin, ho, hready]

theorem execDbBegin_of_not_ready {i : Inst} {s : State} (ho : (s.db i).isOpen = false)
    (hready : ((s.db i).buf (s.db i).w).ready = false) :
    execDbBegin i s = .next
      ((s.setDb i { s.db i with isOpen := true }).respond .ok (if (s.db i).w then 1 else 0)) := by
  simp [execDbBegin, ho, hready, bitField_lo_zero]

/-- Settles O27: one lemma for each branch of DB_BEGIN. -/
theorem dbBeginOpensAUnit : Obligations.DbBeginOpensAUnit := by
  refine fun s a b i => ⟨?decodes, execDbBegin_of_open, fun ho hready => ?busy,
    execDbBegin_of_not_ready⟩
  case decodes =>
    cases i <;> exact decode_of_encode_no_operands (op := 0x30) (by decide) rfl a b
  case busy =>
    cases i <;> exact execDbBegin_of_ready ho hready

/-! ### DB_PUT (R181, R185) -/

theorem elementOk_tx_iff (d : Depth) (x : Word) : elementOk .tx d x = true ↔ x.toNat ≤ 1023 :=
  decide_eq_true_iff

theorem elementOk_tx_eq_false_iff (d : Depth) (x : Word) :
    elementOk .tx d x = false ↔ 1023 < x.toNat := by
  rw [← Bool.not_eq_true, elementOk_tx_iff, Nat.not_le]

theorem execDbPut_of_closed {i : Inst} {x : Word} {s : State} (ho : (s.db i).isOpen = false) :
    execDbPut i x s = .next (s.respond .eseq 0) := by
  simp [execDbPut, ho]

theorem execDbPut_of_not_elementOk {i : Inst} {x : Word} {s : State}
    (ho : (s.db i).isOpen = true) (hx : elementOk i s.fmtDepth x = false) :
    execDbPut i x s = .next (s.respond .erange 0) := by
  simp [execDbPut, ho, hx]

theorem execDbPut_of_full {i : Inst} {x : Word} {s : State} (ho : (s.db i).isOpen = true)
    (hx : elementOk i s.fmtDepth x = true)
    (hfull : ((s.db i).buf (s.db i).w).size = s.cfg.dbCap) :
    execDbPut i x s = .next (s.respond .erange (natU32 s.cfg.dbCap)) := by
  simp [execDbPut, ho, hx, hfull]

theorem execDbPut_of_space {i : Inst} {x : Word} {s : State} (ho : (s.db i).isOpen = true)
    (hx : elementOk i s.fmtDepth x = true)
    (hspace : ((s.db i).buf (s.db i).w).size < s.cfg.dbCap) :
    execDbPut i x s = .next
      ((s.setDb i ((s.db i).extended x)).respond .ok
        (natU32 (((s.db i).buf (s.db i).w).size + 1))) := by
  simp [execDbPut, ho, hx, hspace, hspace.ne, memWrite_eq, DBuf.extended]

/-- Settles O28: one lemma for each branch of DB_PUT; the payload after it is read by
`Memory.get_insert`. -/
theorem dbPutAppendsAnElement : Obligations.DbPutAppendsAnElement := by
  intro s x b i u hu
  subst hu
  refine ⟨?decodes, execDbPut_of_closed, fun ho hx => execDbPut_of_not_elementOk ho ?bad,
    fun ho hx => ?_⟩
  case decodes => cases i <;> exact decode_of_encode_a (op := 0x31) (by decide) rfl b
  case bad =>
    cases i with
    | tx => exact (elementOk_tx_eq_false_iff _ x).2 hx
    | rx => exact (sampleOk_eq_false_iff _ x).2 hx
  have hok : elementOk i s.fmtDepth x = true := by
    cases i with
    | tx => exact (elementOk_tx_iff _ x).2 hx
    | rx => exact (sampleOk_iff _ x).2 hx
  exact ⟨execDbPut_of_full ho hok,
    fun hspace => ⟨_, fun j => Memory.get_insert _ _ j x, execDbPut_of_space ho hok hspace⟩⟩

/-! ### DB_COMMIT (R182) -/

theorem execDbCommit_of_closed {i : Inst} {s : State} (ho : (s.db i).isOpen = false) :
    execDbCommit i s = .next (s.respond .eseq 0) := by
  simp [execDbCommit, ho]

/-- An empty unit closes, and nothing is published. -/
theorem execDbCommit_of_empty {i : Inst} {s : State} (ho : (s.db i).isOpen = true)
    (hsize : ((s.db i).buf (s.db i).w).size = 0) :
    execDbCommit i s = .next
      ((s.setDb i { s.db i with isOpen := false }).respond .empty 0) := by
  simp [execDbCommit, ho, hsize]

theorem execDbCommit_of_nonempty {i : Inst} {s : State} (ho : (s.db i).isOpen = true)
    (hsize : ((s.db i).buf (s.db i).w).size ≠ 0) :
    execDbCommit i s = .next
      ((s.setDb i (s.db i).published).respond .ok
        (natU32 ((s.db i).buf (s.db i).w).size)) := by
  simp [execDbCommit, ho, hsize, DBuf.published]

/-- Settles O29: one lemma for each branch of DB_COMMIT. -/
theorem dbCommitPublishesTheUnit : Obligations.DbCommitPublishesTheUnit := by
  intro s a b i u hu
  subst hu
  refine ⟨?decodes, execDbCommit_of_closed, execDbCommit_of_empty, execDbCommit_of_nonempty⟩
  case decodes =>
    cases i <;> exact decode_of_encode_no_operands (op := 0x32) (by decide) rfl a b

/-! ### DB_GET (R183, R184) -/

theorem execDbGet_rx_of_not_ready {s : State} (hready : (s.dbRx.buf s.dbRx.r).ready = false) :
    execDbGet .rx s = .next (s.respond .empty 0) := by
  simp [execDbGet, hready]

theorem execDbGet_rx_of_exhausted {s : State} (hready : (s.dbRx.buf s.dbRx.r).ready = true)
    (hdone : (s.dbRx.buf s.dbRx.r).size ≤ (s.dbRx.buf s.dbRx.r).pos) :
    execDbGet .rx s = .next ({ s with dbRx := s.dbRx.release }.respond .empty 0) := by
  simp [execDbGet, hready, hdone]

/-- A ready buffer with an element left answers the word that is taken from it. -/
theorem execDbGet_rx_of_take {s : State} {v : Word} {d : DBuf}
    (hready : (s.dbRx.buf s.dbRx.r).ready = true)
    (hleft : (s.dbRx.buf s.dbRx.r).pos < (s.dbRx.buf s.dbRx.r).size)
    (htake : s.dbRx.take s.cfg.dbCap = .ok (v, d)) :
    execDbGet .rx s = .next ({ s with dbRx := d }.respond .ok v) := by
  simp [execDbGet, hready, hleft.not_ge, htake]

/-- Settles O30: an element by what is taken from the buffer (`execDbGet_rx_of_take`), EMPTY from a
buffer that is not ready or exhausted. -/
theorem dbGetTakesTheNextElement : Obligations.DbGetTakesTheNextElement := by
  intro s a b u hu
  subst hu
  refine ⟨fun i => ?decodes, rfl, execDbGet_rx_of_not_ready, execDbGet_rx_of_exhausted,
    fun v hready hleft hcap hv => ?taken⟩
  case decodes =>
    cases i <;> exact decode_of_encode_no_operands (op := 0x33) (by decide) rfl a b
  case taken =>
    subst hv
    exact ⟨fun hmore => execDbGet_rx_of_take hready hleft (DBuf.take_of_more hcap hmore),
      fun hlast => execDbGet_rx_of_take hready hleft (DBuf.take_of_last hcap hlast)⟩

end Sys2Proof.Machine
end

section
/-! ## The single-slot FIFO (R200 to R203) -/

namespace Sys2Proof.Machine

/-! ### FIFO_PUSH (R201) -/

theorem execFifoPush_of_ring {s : State} (w : Word) (hmode : s.cfg.channelMode = .ring) :
    execFifoPush w s = .next (s.respond .emode 0) := by
  simp only [execFifoPush, hmode]

theorem execFifoPush_of_free {s : State} (w : Word) (hmode : s.cfg.channelMode = .fifo)
    (hfree : s.fifoFull = false) :
    execFifoPush w s = .next ({ s with fifoFull := true, fifoWord := w }.respond .ok 0) := by
  simp [execFifoPush, hmode, hfree]

/-- While the slot is full the command waits (R256). -/
theorem execFifoPush_of_full {s : State} (w : Word) (hmode : s.cfg.channelMode = .fifo)
    (hfull : s.fifoFull = true) : execFifoPush w s = .next s := by
  simp [execFifoPush, hmode, hfull]

/-- Settles O31: one lemma for each branch of FIFO_PUSH. -/
theorem fifoPushFillsTheSlotOrWaits : Obligations.FifoPushFillsTheSlotOrWaits := fun _ w b =>
  ⟨decode_of_encode_a (op := 0x40) (sel := 0) (by decide) rfl b, execFifoPush_of_ring w,
    execFifoPush_of_free w, execFifoPush_of_full w⟩

/-! ### FIFO_POP (R202) -/

theorem execFifoPop_of_ring {s : State} (hmode : s.cfg.channelMode = .ring) :
    execFifoPop s = .next (s.respond .emode 0) := by
  simp only [execFifoPop, hmode]

theorem execFifoPop_of_full {s : State} (hmode : s.cfg.channelMode = .fifo)
    (hfull : s.fifoFull = true) :
    execFifoPop s =
      .next (({ s with fifoFull := false }.count .xfer).respond .ok s.fifoWord) := by
  simp [execFifoPop, hmode, hfull]

/-- While the slot is empty the command waits (R256). -/
theorem execFifoPop_of_empty {s : State} (hmode : s.cfg.channelMode = .fifo)
    (hempty : s.fifoFull = false) : execFifoPop s = .next s := by
  simp [execFifoPop, hmode, hempty]

/-- Settles O32: one lemma for each branch of FIFO_POP. -/
theorem fifoPopEmptiesTheSlotOrWaits : Obligations.FifoPopEmptiesTheSlotOrWaits := fun _ a b =>
  ⟨decode_of_encode_no_operands (op := 0x41) (sel := 0) (by decide) rfl a b, execFifoPop_of_ring,
    execFifoPop_of_full, execFifoPop_of_empty⟩

/-! ### What keeps a word in the slot (R203) -/

/-- The slot is full, with the word `v`. -/
def State.SlotHolds (v : Word) (s : State) : Prop := s.fifoFull = true ∧ s.fifoWord = v

@[simp] theorem State.slotHolds_iff {v : Word} {s : State} :
    s.SlotHolds v ↔ s.fifoFull = true ∧ s.fifoWord = v := Iff.rfl

/-- If the outcome is a next state, `v` is in its slot. -/
def KeepsSlot (v : Word) (r : Result) : Prop := ∀ t, r = .next t → t.SlotHolds v

@[simp] theorem keepsSlot_next {v : Word} {t : State} :
    KeepsSlot v (.next t) ↔ t.fifoFull = true ∧ t.fifoWord = v := by
  simp [KeepsSlot]

@[simp] theorem keepsSlot_fault (v : Word) (e : Fault) : KeepsSlot v (.fault e) := by
  simp [KeepsSlot]

theorem keepsSlot_orFault {α : Type} {v : Word} {x : Except Fault α} {f : α → Result}
    (h : ∀ y, x = .ok y → KeepsSlot v (f y)) : KeepsSlot v (orFault x f) := by
  cases x with
  | ok y => exact h y rfl
  | error e => exact keepsSlot_fault v e

@[simp] theorem State.applyFormat_fifoFull (s : State) (rate : Rate) (depth : Depth) :
    (s.applyFormat rate depth).fifoFull = s.fifoFull := rfl

@[simp] theorem State.applyFormat_fifoWord (s : State) (rate : Rate) (depth : Depth) :
    (s.applyFormat rate depth).fifoWord = s.fifoWord := rfl

theorem State.ringAppend_keepsSlot {s s' : State} {v w : Word} {appended : Bool}
    (hs : s.SlotHolds v) (h : s.ringAppend w = .ok (appended, s')) : s'.SlotHolds v := by
  rw [State.ringAppend_eq] at h
  split at h
  · cases h; exact hs
  · split at h <;> cases h
    exact hs

/-- An RX_POLL that finds the slot full holds its value in the port (R166). -/
theorem State.forward_keepsSlot {s : State} {v : Word} (hs : s.SlotHolds v) (c : Word) :
    KeepsSlot v (s.forward c) := by
  obtain ⟨hfull, hword⟩ := hs
  obtain ⟨-, -, h⟩ | ⟨-, hfree, -⟩ | ⟨-, -, -, h⟩ | ⟨-, -, -, h⟩ | ⟨-, -, -, h⟩ :=
    s.forward_cases c
  case inr.inl => simp [hfull] at hfree
  all_goals simp [h, hfull, hword]

theorem execFifoPush_keepsSlot {s : State} {v : Word} (hs : s.SlotHolds v) (w : Word) :
    KeepsSlot v (execFifoPush w s) := by
  cases hmode : s.cfg.channelMode with
  | ring => rw [execFifoPush_of_ring w hmode]; simpa using hs
  | fifo => rw [execFifoPush_of_full w hmode hs.1]; simpa using hs

/-- Every command but FIFO_POP leaves a word in the slot. -/
theorem exec_keepsSlot {i : Instr} {s : State} {v : Word} (hi : i ≠ .fifoPop)
    (hs : s.SlotHolds v) : KeepsSlot v (exec i s) := by
  have ⟨hfull, hword⟩ := hs
  cases i with
  | fifoPop => exact absurd rfl hi
  | fifoPush w => exact execFifoPush_keepsSlot hs w
  | nop | statsClear => simp [exec, execNop, execStatsClear, hfull, hword]
  | csrRead | setFormat | ppmEncode | ppmDecode | downmix | detPop | rxCorrect =>
    simp only [exec, execCsrRead, execSetFormat, execPpmEncode, execPpmDecode, execDownmix,
      execDetPop, execRxCorrect]
    split <;> simp [hfull, hword]
  | genPush | dbBegin | dbCommit | ringFlush =>
    simp only [exec, execGenPush, execDbBegin, execDbCommit, execRingFlush]
    split
    · simp [hfull, hword]
    · split <;> simp [hfull, hword]
  | pdmStep x =>
    simp only [exec, execPdmStep]
    split
    · split <;> simp [hfull, hword]
    · simp [hfull, hword]
  | rxPoll =>
    simp only [exec, execRxPoll]
    split
    · simp [hfull, hword]
    · split
      · exact State.forward_keepsSlot (by simpa using hs) _
      · simp [hfull, hword]
  | dbPut j x =>
    simp only [exec, execDbPut]
    split
    · simp [hfull, hword]
    · split
      · simp [hfull, hword]
      · split
        · simp [hfull, hword]
        · exact keepsSlot_orFault fun _ _ => by simp [hfull, hword]
  | dbGet j =>
    cases j with
    | tx => simp [exec, execDbGet, hfull, hword]
    | rx =>
      simp only [exec, execDbGet]
      split
      · simp [hfull, hword]
      · split
        · simp [hfull, hword]
        · exact keepsSlot_orFault fun _ _ => by simp [hfull, hword]
  | ringAppend w =>
    simp only [exec, execRingAppend]
    split
    · simp [hfull, hword]
    · refine keepsSlot_orFault fun ⟨appended, s'⟩ h => ?_
      have hs' := State.ringAppend_keepsSlot hs h
      cases appended <;> simpa using hs'
  | ringPop =>
    simp only [exec, execRingPop]
    split
    · simp [hfull, hword]
    · split
      · simp [hfull, hword]
      · exact keepsSlot_orFault fun _ _ => by simp [hfull, hword]

/-! ### A word leaves the slot through a FIFO_POP only (R203) -/

theorem takeTick_keepsSlot {s : State} {v : Word} (hs : s.SlotHolds v) :
    KeepsSlot v (takeTick s) := by
  obtain ⟨_, _, -, -, -, h⟩ | ⟨_, -, -, -, h⟩ | ⟨-, -, h⟩ | ⟨-, h⟩ := takeTick_cases s <;> rw [h]
  case inr.inl => exact keepsSlot_fault v _
  all_goals simpa using hs

theorem State.genStart_keepsSlot {s : State} {v : Word} (hs : s.SlotHolds v) :
    s.genStart.SlotHolds v := by
  obtain ⟨_, _, -, -, h⟩ | h := s.genStart_cases <;> rw [h] <;> exact hs

theorem State.genEnd_keepsSlot {s : State} {v : Word} (hs : s.SlotHolds v) :
    s.genEnd.SlotHolds v := by
  cases hg : s.genState with
  | low => rw [State.genEnd_of_low hg]; exact hs
  | idle => rwa [State.genEnd_of_idle hg]

theorem State.tick_keepsSlot {s : State} {v : Word} (hs : s.SlotHolds v) :
    s.tick.SlotHolds v := by
  unfold State.tick
  split <;> exact hs

theorem State.capture_keepsSlot {s : State} {v : Word} (hs : s.SlotHolds v) (m : Word) :
    (s.capture m).SlotHolds v := by
  unfold State.capture
  dsimp only
  split <;> exact hs

/-- A FIFO_POP takes the word out and answers it, where the build has a FIFO (R200, R202). -/
theorem execFifoPop_keepsSlot_or_answers {s t : State} {v : Word} (hs : s.SlotHolds v)
    (h : execFifoPop s = .next t) :
    t.SlotHolds v ∨
    t.fifoFull = false ∧ t.fifoWord = v ∧ answered s.active s t ⟨.ok, v⟩ := by
  obtain ⟨hfull, rfl⟩ := hs
  cases hmode : s.cfg.channelMode with
  | ring =>
    rw [execFifoPop_of_ring hmode] at h
    cases h
    exact .inl (by simp [hfull])
  | fifo =>
    rw [execFifoPop_of_full hmode hfull] at h
    cases h
    exact .inr ⟨by simp, by simp, (answered_respond_iff rfl rfl).2 rfl⟩

@[simp] theorem State.withActive_port (s : State) (p q : PortId) :
    { s with active := p }.port q = s.port q := by cases q <;> rfl

/-- A step of port `p` leaves `v` in the slot, or is a FIFO_POP, which answers `v`. -/
theorem portStep_keepsSlot_or_pops {p : PortId} {s t : State} {v : Word} (hs : s.SlotHolds v)
    (h : portStep p s = .next t) :
    t.SlotHolds v ∨
    ∃ x, s.txTickEnabled = false ∧ (s.port p).hold = .none ∧ (s.port p).cmd = some x ∧
      decode x = .ok .fifoPop ∧ t.fifoFull = false ∧ t.fifoWord = v ∧ answered p s t ⟨.ok, v⟩ := by
  obtain ⟨-, hp⟩ | ⟨u, -, -, hp⟩ | ⟨x, i, htick, hhold, hcmd, hdec, hp⟩ | ⟨x, r, -, -, -, -, hp⟩ |
    ⟨-, -, -, hp⟩ := portStep_cases p s <;> rw [hp] at h
  case inr.inr.inl =>
    have hsp : State.SlotHolds v { s with active := p } := hs
    by_cases hi : i = .fifoPop
    case neg => exact .inl (exec_keepsSlot hi hsp t h)
    subst hi
    obtain hkept | ⟨hempty, hword, hans⟩ := execFifoPop_keepsSlot_or_answers hsp h
    · exact .inl hkept
    · exact .inr ⟨x, htick, hhold, hcmd, hdec, hempty, hword, by simpa [answered] using hans⟩
  case inr.inl =>
    cases h
    rw [State.forwardDone_of_full p u hs.1]
    exact .inl hs
  all_goals cases h; exact .inl (by simpa using hs)

/-- No event but a power-on takes `v` out of the slot, unless it makes a port run a FIFO_POP, which
answers `v`. -/
theorem runEvent_keepsSlot_or_pops {e : Event} {s t : State} {v : Word} (hpow : e ≠ .powerOn)
    (hs : s.SlotHolds v) (h : runEvent e s = .next t) :
    t.SlotHolds v ∨
    ∃ p x, runsTxn e s p x ∧ decode x = .ok .fifoPop ∧ t.fifoFull = false ∧ t.fifoWord = v ∧
      answered p s t ⟨.ok, v⟩ := by
  cases e with
  | command p y =>
    simp only [runEvent] at h
    split at h
    case isFalse => cases h; exact .inl hs
    case isTrue hfree =>
      obtain ⟨hhold, hcmd⟩ := (s.portFree_iff p).1 hfree
      obtain hkept | ⟨x, htick, -, hx, hdec, hempty, hword, hans⟩ :=
        portStep_keepsSlot_or_pops (s := s.present p y) (by simpa using hs) h
      · exact .inl hkept
      · obtain rfl : y = x := by simpa using hx
        exact .inr ⟨p, y, ⟨by simpa using htick, hhold, .inl ⟨rfl, hcmd⟩⟩, hdec, hempty, hword,
          by simpa [answered] using hans⟩
  | proceed p =>
    obtain hkept | ⟨x, htick, hhold, hcmd, hdec, hpop⟩ := portStep_keepsSlot_or_pops hs h
    · exact .inl hkept
    · exact .inr ⟨p, x, ⟨htick, hhold, .inr ⟨rfl, hcmd⟩⟩, hdec, hpop⟩
  | txTick =>
    simp only [runEvent] at h
    split at h
    · exact .inl (takeTick_keepsSlot hs t h)
    · cases h; exact .inl hs
  | tick => cases h; exact .inl (State.tick_keepsSlot hs)
  | genStart => cases h; exact .inl (State.genStart_keepsSlot hs)
  | genEnd => cases h; exact .inl (State.genEnd_keepsSlot hs)
  | capture m => cases h; exact .inl (State.capture_keepsSlot hs m)
  | powerOn => exact absurd rfl hpow

/-- Settles O33: the slot keeps its word, or the event runs a FIFO_POP that answers it. -/
theorem fifoWordIsNeverOverwritten : Obligations.FifoWordIsNeverOverwritten := by
  intro s t e hpow hfull h
  obtain ⟨hkept, hword⟩ | ⟨p, x, hruns, hdec, hempty, hword, hans⟩ :=
    runEvent_keepsSlot_or_pops hpow ⟨hfull, rfl⟩ h
  · exact ⟨hword, .inl hkept⟩
  · exact ⟨hword, .inr ⟨hempty, p, x, hruns, hdec, hans⟩⟩

end Sys2Proof.Machine
end

section
/-! ## The ring commands (R204 to R209) -/

namespace Sys2Proof.Machine

/-! ### RING_APPEND (R204 to R206) -/

theorem Ring.writing_eq (r : Ring) :
    r.writing =
      { r with
        semEmpty := if r.wheld then r.semEmpty else r.semEmpty - 1, wheld := true,
        wcount := if r.wheld then r.wcount else 0 } := by
  obtain ⟨_, _, _, _, _, _, _, _, wheld, _, _, _⟩ := r
  cases wheld <;> rfl

/-- The ring with one word written at the end of the held array (R204). -/
def Ring.extended (v : Word) (r : Ring) : Ring :=
  { r.setArray r.wi ((r.array r.wi).insert r.wcount v) with wcount := r.wcount + 1 }

theorem Ring.appended_of_more {batch : Nat} {r : Ring} (v : Word) (h : r.wcount + 1 ≠ batch) :
    r.appended batch v = r.extended v := if_neg h

theorem Ring.appended_of_last {batch : Nat} {r : Ring} (v : Word) (h : r.wcount + 1 = batch) :
    r.appended batch v = (r.extended v).publish := if_pos h

theorem Ring.hasRoom_iff {cap : Nat} {r : Ring} :
    r.HasRoom cap ↔
      (r.wheld = true ∨ r.semEmpty ≠ 0) ∧ (if r.wheld then r.wcount else 0) < cap := by
  cases h : r.wheld <;> simp [Ring.HasRoom, h]

theorem execRingAppend_of_fifo {s : State} (w : Word) (hmode : s.cfg.channelMode = .fifo) :
    execRingAppend w s = .next (s.respond .emode 0) := by
  simp only [execRingAppend, hmode]

theorem execRingAppend_of_saturated {s : State} (w : Word) (hmode : s.cfg.channelMode = .ring)
    (hheld : s.ring.wheld = false) (hsem : s.ring.semEmpty = 0) :
    execRingAppend w s = .next ((s.count .ringDrop).respond .busy 0) := by
  simp [execRingAppend, hmode, State.ringAppend_of_saturated w hheld hsem]

theorem execRingAppend_of_hasRoom {s : State} {r : Ring} (w : Word)
    (hmode : s.cfg.channelMode = .ring) (hroom : s.ring.HasRoom s.cfg.ringCap)
    (hr : s.ring.writing.appended s.cfg.ringBatch w = r) :
    execRingAppend w s = .next ({ s with ring := r }.respond .ok (natU32 r.wcount)) := by
  simp [execRingAppend, hmode, State.ringAppend_of_hasRoom w hroom, hr]

/-- Settles O34: `Ring.writing_eq` gives the place and the semaphore of a writer that holds an array,
and the two ways of appending the ring after it; the array is read by `Memory.get_insert`. -/
theorem ringAppendWritesPublishesOrDrops : Obligations.RingAppendWritesPublishesOrDrops := by
  intro s w b n e hn he
  refine ⟨decode_of_encode_a (op := 0x48) (sel := 0) (by decide) rfl b, execRingAppend_of_fifo w,
    execRingAppend_of_saturated w, fun hmode hholds hcap =>
      ⟨(s.ring.array s.ring.wi).insert n w, fun j => Memory.get_insert _ _ j w, fun hmore => ?more,
        fun hlast => ?last⟩⟩
  all_goals
    have hroom : s.ring.HasRoom s.cfg.ringCap := Ring.hasRoom_iff.2 ⟨hholds, hn ▸ hcap⟩
    refine execRingAppend_of_hasRoom w hmode hroom ?_
    rw [Ring.writing_eq, ← hn, ← he]
  case more =>
    rw [Ring.appended_of_more w hmore]
    cases hwi : s.ring.wi <;> simp [Ring.extended, Ring.setArray, Ring.array, hwi]
  case last =>
    rw [Ring.appended_of_last w hlast]
    cases hwi : s.ring.wi <;>
      simp [Ring.extended, Ring.publish, Ring.setArray, Ring.setRsize, Ring.array, releaseSem, hwi]

/-! ### RING_FLUSH (R206, R207) -/

theorem execRingFlush_of_fifo {s : State} (hmode : s.cfg.channelMode = .fifo) :
    execRingFlush s = .next (s.respond .emode 0) := by
  simp only [execRingFlush, hmode]

theorem execRingFlush_of_held {s : State} (hmode : s.cfg.channelMode = .ring)
    (hheld : s.ring.wheld = true) (hcount : 0 < s.ring.wcount) :
    execRingFlush s =
      .next ({ s with ring := s.ring.publish }.respond .ok (natU32 s.ring.wcount)) := by
  simp [execRingFlush, hmode, hheld, hcount]

theorem execRingFlush_of_nothing {s : State} (hmode : s.cfg.channelMode = .ring)
    (h : s.ring.wheld = false ∨ s.ring.wcount = 0) :
    execRingFlush s = .next (s.respond .empty 0) := by
  obtain h | h := h <;> simp [execRingFlush, hmode, h]

/-- Settles O35: one lemma for each branch of RING_FLUSH. -/
theorem ringFlushPublishesThePartialBatch : Obligations.RingFlushPublishesThePartialBatch :=
  fun _ a b =>
    ⟨decode_of_encode_no_operands (op := 0x49) (sel := 0) (by decide) rfl a b,
      execRingFlush_of_fifo, execRingFlush_of_held, execRingFlush_of_nothing⟩

/-! ### RING_POP (R208, R209) -/

theorem Ring.reading_eq (r : Ring) :
    r.reading =
      { r with
        semFull := if r.rheld then r.semFull else r.semFull - 1, rheld := true,
        rpos := if r.rheld then r.rpos else 0 } := by
  obtain ⟨_, _, _, _, _, _, _, _, _, _, rheld, _⟩ := r
  cases rheld <;> rfl

theorem Ring.takeHeld_of_more {cap : Nat} {r : Ring} (hcap : r.rpos < cap)
    (hmore : r.rpos + 1 ≠ r.rsize r.ri) :
    r.takeHeld cap = .ok ((r.array r.ri).get r.rpos, { r with rpos := r.rpos + 1 }) := by
  rw [Ring.takeHeld_eq, if_pos hcap, if_neg hmore]

theorem Ring.takeHeld_of_last {cap : Nat} {r : Ring} (hcap : r.rpos < cap)
    (hlast : r.rpos + 1 = r.rsize r.ri) :
    r.takeHeld cap = .ok ((r.array r.ri).get r.rpos, r.release) := by
  rw [Ring.takeHeld_eq, if_pos hcap, if_pos hlast]

theorem execRingPop_of_fifo {s : State} (hmode : s.cfg.channelMode = .fifo) :
    execRingPop s = .next (s.respond .emode 0) := by
  simp only [execRingPop, hmode]

theorem execRingPop_of_nothing {s : State} (hmode : s.cfg.channelMode = .ring)
    (hheld : s.ring.rheld = false) (hsem : s.ring.semFull = 0) :
    execRingPop s = .next (s.respond .empty 0) := by
  simp [execRingPop, hmode, Ring.acquireFull_eq, hheld, hsem]

/-- A reader that holds an array, or can take one, answers the word that is taken from it. -/
theorem execRingPop_of_take {s : State} {v : Word} {r : Ring} (hmode : s.cfg.channelMode = .ring)
    (hholds : s.ring.rheld = true ∨ s.ring.semFull ≠ 0)
    (htake : s.ring.reading.takeHeld s.cfg.ringCap = .ok (v, r)) :
    execRingPop s = .next (({ s with ring := r }.count .xfer).respond .ok v) := by
  have hfull : s.ring.acquireFull = some s.ring.reading := by
    rw [Ring.acquireFull_eq, if_neg]
    rintro ⟨hheld, hsem⟩
    simp [hheld, hsem] at hholds
  simp [execRingPop, hmode, hfull, htake]

/-- Settles O36: `Ring.reading_eq` gives the cursor and the semaphore of a reader that holds an array,
and the two ways of taking a word the ring after it. -/
theorem ringPopTakesTheNextWord : Obligations.RingPopTakesTheNextWord := by
  intro s a b n f hn hf
  refine ⟨decode_of_encode_no_operands (op := 0x4A) (sel := 0) (by decide) rfl a b,
    execRingPop_of_fifo, execRingPop_of_nothing, fun v hmode hholds hcap hv =>
      ⟨fun hmore => execRingPop_of_take hmode hholds ?more,
        fun hlast => execRingPop_of_take hmode hholds ?last⟩⟩
  all_goals rw [Ring.reading_eq, ← hn, ← hf, hv]
  case more => exact Ring.takeHeld_of_more hcap hmore
  case last =>
    rw [Ring.takeHeld_of_last (by exact hcap) (by exact hlast)]
    cases hri : s.ring.ri <;> simp [Ring.release, Ring.setRsize, releaseSem, hri]

end Sys2Proof.Machine
end

section
/-! ## The ring is a queue (R30, R204 to R211)

The contents are the published words and after them the writer's batch. Each step of the writer and of
the reader on the ring is described by what it does to the two, and each command by its steps. -/

namespace Sys2Proof.Machine

/-! ### What each operation on the ring leaves in its parts -/

@[simp] theorem Ring.extended_array (v : Word) (r : Ring) (k : Half) :
    (r.extended v).array k =
      if k = r.wi then (r.array r.wi).insert r.wcount v else r.array k :=
  Ring.setArray_array ..

@[simp] theorem Ring.extended_rsize (v : Word) (r : Ring) (k : Half) :
    (r.extended v).rsize k = r.rsize k := Ring.setArray_rsize ..

@[simp] theorem Ring.extended_ri (v : Word) (r : Ring) : (r.extended v).ri = r.ri :=
  Ring.setArray_ri ..

@[simp] theorem Ring.extended_rpos (v : Word) (r : Ring) : (r.extended v).rpos = r.rpos :=
  Ring.setArray_rpos ..

@[simp] theorem Ring.extended_wi (v : Word) (r : Ring) : (r.extended v).wi = r.wi :=
  Ring.setArray_wi ..

@[simp] theorem Ring.extended_wheld (v : Word) (r : Ring) : (r.extended v).wheld = r.wheld :=
  Ring.setArray_wheld ..

@[simp] theorem Ring.extended_wcount (v : Word) (r : Ring) :
    (r.extended v).wcount = r.wcount + 1 := rfl

@[simp] theorem Ring.extended_inFlight (v : Word) (r : Ring) :
    (r.extended v).inFlight = r.inFlight := by
  simp [Ring.extended, Ring.inFlight]

@[simp] theorem Ring.publish_array (r : Ring) (k : Half) : r.publish.array k = r.array k :=
  Ring.setRsize_array ..

@[simp] theorem Ring.publish_rsize (r : Ring) (k : Half) :
    r.publish.rsize k = if k = r.wi then r.wcount else r.rsize k := Ring.setRsize_rsize ..

@[simp] theorem Ring.publish_ri (r : Ring) : r.publish.ri = r.ri := Ring.setRsize_ri ..

@[simp] theorem Ring.publish_rpos (r : Ring) : r.publish.rpos = r.rpos := Ring.setRsize_rpos ..

@[simp] theorem Ring.release_array (r : Ring) (k : Half) : r.release.array k = r.array k :=
  Ring.setRsize_array ..

@[simp] theorem Ring.release_rsize (r : Ring) (k : Half) :
    r.release.rsize k = if k = r.ri then 0 else r.rsize k := Ring.setRsize_rsize ..

@[simp] theorem Ring.release_ri (r : Ring) : r.release.ri = !r.ri := rfl

@[simp] theorem Ring.release_rpos (r : Ring) : r.release.rpos = 0 := rfl

@[simp] theorem Ring.release_wi (r : Ring) : r.release.wi = r.wi := Ring.setRsize_wi ..

@[simp] theorem Ring.release_wheld (r : Ring) : r.release.wheld = r.wheld := Ring.setRsize_wheld ..

@[simp] theorem Ring.release_wcount (r : Ring) : r.release.wcount = r.wcount :=
  Ring.setRsize_wcount ..

theorem Ring.publish_inFlight (r : Ring) : r.publish.inFlight = r.inFlight + 1 := by
  simp [Ring.publish, Ring.inFlight, releaseSem, Nat.add_assoc]

theorem Ring.release_inFlight {r : Ring} (h : r.rheld = true) :
    r.release.inFlight + 1 = r.inFlight := by
  simp [Ring.release, Ring.inFlight, h, Nat.add_comm]

/-! ### The invariant of the ring (R30) by its parts -/

theorem Config.ringBatch_bounds {c : Config} (h : c.wf = true) :
    1 ≤ c.ringBatch ∧ c.ringBatch ≤ c.ringCap := by
  simp only [Config.wf, Config.ringBatchOk, Bool.and_eq_true, decide_eq_true_eq] at h
  exact h.2

theorem ringWf_iff {cap batch : Nat} {r : Ring} :
    ringWf cap batch r = true ↔
      r.semEmpty + r.semFull + r.wheld.toNat + r.rheld.toNat = 2 ∧
      r.wi = (if r.inFlight % 2 = 1 then !r.ri else r.ri) ∧ (∀ k, r.arrayWf cap k = true) ∧
      r.writerWf batch = true ∧ r.readerWf = true := by
  simp only [ringWf, Bool.and_eq_true, decide_eq_true_eq, beq_iff_eq, Bool.forall_bool, and_assoc]

theorem Ring.writerWf_of_held {batch : Nat} {r : Ring} (h : r.writerWf batch = true)
    (hheld : r.wheld = true) : 1 ≤ r.wcount ∧ r.wcount < batch := by
  simp only [Ring.writerWf, hheld, if_true, Bool.and_eq_true, decide_eq_true_eq] at h
  obtain ⟨hcount, -⟩ := h
  exact hcount

theorem Ring.readerWf_iff {r : Ring} :
    r.readerWf = true ↔
      (r.rheld = true → 1 ≤ r.rpos ∧ r.rpos < r.rsize r.ri) ∧ (r.rheld = false → r.rpos = 0) := by
  cases h : r.rheld <;> simp [Ring.readerWf, h]

/-- A published array has at least one word, and no more than it can hold. -/
theorem Ring.arrayWf_of_published {cap : Nat} {r : Ring} {k : Half} (h : r.arrayWf cap k = true)
    (hpub : r.published k = true) : 1 ≤ r.rsize k ∧ r.rsize k ≤ cap := by
  simp only [Ring.arrayWf, hpub, if_true, Bool.and_eq_true, decide_eq_true_eq] at h
  obtain ⟨-, hsize, -⟩ := h
  exact hsize

theorem Ring.published_ri {r : Ring} (h : r.inFlight ≠ 0) : r.published r.ri = true := by
  simp only [Ring.published, beq_self_eq_true, Bool.and_true, Bool.or_eq_true, decide_eq_true_eq]
  omega

/-- While a published array is in flight the reader's cursor is in the oldest one (R208). -/
theorem Ring.rpos_lt_of_inFlight {cap batch : Nat} {r : Ring} (h : ringWf cap batch r = true)
    (hin : r.inFlight ≠ 0) : r.rpos < r.rsize r.ri ∧ r.rsize r.ri ≤ cap := by
  obtain ⟨-, -, harr, -, hread⟩ := ringWf_iff.1 h
  obtain ⟨hone, hcap⟩ := Ring.arrayWf_of_published (harr r.ri) (Ring.published_ri hin)
  obtain ⟨hheld, hfree⟩ := Ring.readerWf_iff.1 hread
  refine ⟨?_, hcap⟩
  cases hr : r.rheld with
  | true => exact (hheld hr).2
  | false => rw [hfree hr]; exact hone

theorem Ring.inFlight_eq_zero_iff {r : Ring} :
    r.inFlight = 0 ↔ r.rheld = false ∧ r.semFull = 0 := by
  cases h : r.rheld <;> simp [Ring.inFlight, h]

/-- At most both arrays are in flight. -/
theorem Ring.inFlight_cases {cap batch : Nat} {r : Ring} (h : ringWf cap batch r = true)
    (hin : r.inFlight ≠ 0) : r.inFlight = 1 ∨ r.inFlight = 2 := by
  obtain ⟨hsum, -⟩ := ringWf_iff.1 h
  have hle : r.inFlight ≤ 2 := by
    rw [Ring.inFlight]
    omega
  omega

/-! ### The words in the ring -/

theorem Ring.unread_of_none {r : Ring} (h : r.inFlight = 0) : r.unread = [] := by
  simp [Ring.unread, h]

theorem Ring.unread_of_one {r : Ring} (h : r.inFlight = 1) :
    r.unread = Memory.slice (r.array r.ri) r.rpos (r.rsize r.ri) := by
  simp [Ring.unread, h]

theorem Ring.unread_of_two {r : Ring} (h : 2 ≤ r.inFlight) :
    r.unread = Memory.slice (r.array r.ri) r.rpos (r.rsize r.ri) ++
      Memory.slice (r.array (!r.ri)) 0 (r.rsize (!r.ri)) := by
  simp [Ring.unread, h, show r.inFlight ≠ 0 by omega]

theorem Ring.batch_of_held {r : Ring} (h : r.wheld = true) :
    r.batch = Memory.slice (r.array r.wi) 0 r.wcount := if_pos h

theorem Ring.batch_of_free {r : Ring} (h : r.wheld = false) : r.batch = [] := by
  simp [Ring.batch, h]

/-! ### The writer's side: an append goes to the end, a publication moves nothing -/

/-- The writer holds the array that follows those in flight (R211 (1)). -/
def Ring.WritesNext (r : Ring) : Prop :=
  r.wheld = true ∧
    ((r.inFlight = 0 ∧ r.wi = r.ri ∧ r.rpos = 0) ∨ (r.inFlight = 1 ∧ r.wi = !r.ri))

/-- Acquiring an array adds no word and takes none away. -/
theorem Ring.writing_contents (r : Ring) : r.writing.contents = r.contents := by
  cases h : r.wheld <;>
    simp [Ring.writing, h, Ring.contents, Ring.unread, Ring.batch, Ring.inFlight, Ring.array,
      Ring.rsize]

/-- The writer's side of the invariant, once it holds an array: R211 (1), and one array at most is in
flight beside it. -/
theorem Ring.writing_writesNext {cap batch : Nat} {r : Ring} (h : ringWf cap batch r = true)
    (hholds : r.wheld = true ∨ r.semEmpty ≠ 0) : r.writing.WritesNext := by
  obtain ⟨hsum, horder, -, -, hread⟩ := ringWf_iff.1 h
  obtain ⟨-, hfree⟩ := Ring.readerWf_iff.1 hread
  have hin : r.inFlight = 0 ∨ r.inFlight = 1 := by
    rw [Ring.inFlight]
    obtain hheld | hsem := hholds
    · rw [hheld, Bool.toNat_true] at hsum
      omega
    · omega
  rw [Ring.writing_eq]
  obtain hzero | hone := hin
  · obtain ⟨hnone, -⟩ := Ring.inFlight_eq_zero_iff.1 hzero
    exact ⟨rfl, .inl ⟨hzero, by simpa [hzero] using horder, hfree hnone⟩⟩
  · exact ⟨rfl, .inr ⟨hone, by simpa [hone] using horder⟩⟩

theorem Ring.extended_writesNext {r : Ring} (v : Word) (h : r.WritesNext) :
    (r.extended v).WritesNext := by
  simpa [Ring.WritesNext] using h

/-- The writer's array is none of those in flight. -/
theorem Ring.extended_unread {r : Ring} (v : Word) (h : r.WritesNext) :
    (r.extended v).unread = r.unread := by
  obtain ⟨-, ⟨hin, -, -⟩ | ⟨hin, hwi⟩⟩ := h
  · rw [Ring.unread_of_none hin, Ring.unread_of_none ((r.extended_inFlight v).trans hin)]
  · rw [Ring.unread_of_one hin, Ring.unread_of_one ((r.extended_inFlight v).trans hin)]
    simp [hwi]

theorem Ring.extended_batch {r : Ring} (v : Word) (h : r.wheld = true) :
    (r.extended v).batch = r.batch ++ [v] := by
  rw [Ring.batch_of_held h, Ring.batch_of_held ((r.extended_wheld v).trans h)]
  simp [Memory.slice_insert_end]

theorem Ring.extended_contents {r : Ring} (v : Word) (h : r.WritesNext) :
    (r.extended v).contents = r.contents ++ [v] := by
  rw [Ring.contents, Ring.extended_unread v h, Ring.extended_batch v h.1, Ring.contents,
    List.append_assoc]

theorem Ring.publish_batch (r : Ring) : r.publish.batch = [] := Ring.batch_of_free rfl

/-- A published batch stands after the words in flight, where the writer's batch stood. -/
theorem Ring.publish_contents {r : Ring} (h : r.WritesNext) :
    r.publish.contents = r.contents := by
  have hin' := r.publish_inFlight
  obtain ⟨hheld, ⟨hin, hwi, hpos⟩ | ⟨hin, hwi⟩⟩ := h <;> rw [hin] at hin' <;>
    rw [Ring.contents, Ring.contents, Ring.publish_batch, Ring.batch_of_held hheld]
  · rw [Ring.unread_of_none hin, Ring.unread_of_one hin']
    simp [hwi, hpos]
  · rw [Ring.unread_of_one hin, Ring.unread_of_two hin'.ge]
    simp [hwi]

theorem Ring.appended_contents {batch : Nat} {r : Ring} (v : Word) (h : r.WritesNext) :
    (r.appended batch v).contents = r.contents ++ [v] := by
  rw [← Ring.extended_contents v h]
  by_cases hlast : r.wcount + 1 = batch
  · rw [Ring.appended_of_last v hlast, Ring.publish_contents (Ring.extended_writesNext v h)]
  · rw [Ring.appended_of_more v hlast]

/-- A writer that holds an array, or can take one, has a place for a word (R204). -/
theorem Ring.hasRoom_of_ringWf {cap batch : Nat} {r : Ring} (h : ringWf cap batch r = true)
    (hone : 1 ≤ batch) (hcap : batch ≤ cap) (hholds : r.wheld = true ∨ r.semEmpty ≠ 0) :
    r.HasRoom cap := by
  obtain ⟨-, -, -, hwrite, -⟩ := ringWf_iff.1 h
  refine Ring.hasRoom_iff.2 ⟨hholds, ?_⟩
  split
  case isTrue hheld =>
    obtain ⟨-, hlt⟩ := Ring.writerWf_of_held hwrite hheld
    omega
  case isFalse => omega

/-! ### The reader's side: a pop takes the oldest published word -/

theorem Ring.unread_eq_nil_iff {cap batch : Nat} {r : Ring} (h : ringWf cap batch r = true) :
    r.unread = [] ↔ r.rheld = false ∧ r.semFull = 0 := by
  rw [← Ring.inFlight_eq_zero_iff]
  refine ⟨fun hu => ?_, Ring.unread_of_none⟩
  by_contra hin
  obtain ⟨hlt, -⟩ := Ring.rpos_lt_of_inFlight h hin
  simp [Ring.unread, hin, Memory.slice_cons _ hlt] at hu

/-- Taking the array that it is about to read does not move the reader's cursor (R208). -/
theorem Ring.reading_of_ringWf {cap batch : Nat} {r : Ring} (h : ringWf cap batch r = true) :
    r.reading = { r with semFull := r.inFlight - 1, rheld := true } := by
  obtain ⟨-, -, -, -, hread⟩ := ringWf_iff.1 h
  obtain ⟨-, hfree⟩ := Ring.readerWf_iff.1 hread
  rw [Ring.reading_eq]
  cases hr : r.rheld with
  | true => simp [Ring.inFlight, hr]
  | false => simp [Ring.inFlight, hr, hfree hr]

/-- A reader that takes an array in flight holds one of as many (R30). -/
theorem Ring.holding_inFlight {r : Ring} (h : r.inFlight ≠ 0) :
    { r with semFull := r.inFlight - 1, rheld := true }.inFlight = r.inFlight := by
  rw [Ring.inFlight]
  exact Nat.add_sub_cancel' (Nat.one_le_iff_ne_zero.2 h)

theorem Ring.holding_unread {r : Ring} (h : r.inFlight ≠ 0) :
    { r with semFull := r.inFlight - 1, rheld := true }.unread = r.unread := by
  rw [Ring.unread, Ring.holding_inFlight h]
  rfl

theorem Ring.unread_eq_cons {r : Ring} (hin : r.inFlight ≠ 0) (hpos : r.rpos < r.rsize r.ri) :
    r.unread = (r.array r.ri).get r.rpos :: { r with rpos := r.rpos + 1 }.unread := by
  have hin' : { r with rpos := r.rpos + 1 }.inFlight ≠ 0 := hin
  simp only [Ring.unread, if_neg hin, if_neg hin', Memory.slice_cons _ hpos, List.cons_append]
  rfl

theorem Ring.release_batch (r : Ring) : r.release.batch = r.batch := by
  simp [Ring.batch]

/-- With the last word of its array taken, what the reader has left is the array after it (R209). -/
theorem Ring.release_unread {r : Ring} (hheld : r.rheld = true)
    (hin : r.inFlight = 1 ∨ r.inFlight = 2) (hlast : r.rpos + 1 = r.rsize r.ri) :
    r.release.unread = { r with rpos := r.rpos + 1 }.unread := by
  have hrelease := Ring.release_inFlight hheld
  have hdone : (r.array r.ri).slice (r.rpos + 1) (r.rsize r.ri) = [] :=
    Memory.slice_of_le hlast.ge
  obtain hone | htwo := hin
  · have hone' : { r with rpos := r.rpos + 1 }.inFlight = 1 := hone
    rw [Ring.unread_of_none (by omega), Ring.unread_of_one hone']
    exact hdone.symm
  · have htwo' : { r with rpos := r.rpos + 1 }.inFlight = 2 := htwo
    rw [Ring.unread_of_one (by omega), Ring.unread_of_two htwo'.ge]
    simp only [Ring.release_array, Ring.release_ri, Ring.release_rpos, Ring.release_rsize]
    rw [if_neg (by simp)]
    exact (congrArg (· ++ _) hdone).symm

/-- What taking a word from the held array leaves: the rest of the published words, and the writer's
batch (R208, R209). -/
theorem Ring.takeHeld_queue {cap : Nat} {r : Ring} (hheld : r.rheld = true)
    (hin : r.inFlight = 1 ∨ r.inFlight = 2) (hpos : r.rpos < r.rsize r.ri)
    (hcap : r.rsize r.ri ≤ cap) :
    ∃ v r', r.takeHeld cap = .ok (v, r') ∧ r.unread = v :: r'.unread ∧ r'.batch = r.batch := by
  have hcons := Ring.unread_eq_cons (by omega) hpos
  by_cases hlast : r.rpos + 1 = r.rsize r.ri
  · refine ⟨_, _, Ring.takeHeld_of_last (by omega) hlast, ?_, r.release_batch⟩
    rw [hcons, Ring.release_unread hheld hin hlast]
  · exact ⟨_, _, Ring.takeHeld_of_more (by omega) hlast, hcons, rfl⟩

/-- The reader takes the oldest published word, and leaves the rest and the writer's batch. -/
theorem Ring.takeHeld_of_unread {cap batch : Nat} {r : Ring} {v : Word} {rest : List Word}
    (h : ringWf cap batch r = true) (hu : r.unread = v :: rest) :
    (r.rheld = true ∨ r.semFull ≠ 0) ∧
    ∃ r', r.reading.takeHeld cap = .ok (v, r') ∧ r'.unread = rest ∧ r'.batch = r.batch := by
  have hsome : ¬ (r.rheld = false ∧ r.semFull = 0) := by
    rw [← Ring.unread_eq_nil_iff h, hu]
    simp
  have hin : r.inFlight ≠ 0 := mt Ring.inFlight_eq_zero_iff.1 hsome
  refine ⟨by simpa using not_and_or.1 hsome, ?_⟩
  obtain ⟨hpos, hcap⟩ := Ring.rpos_lt_of_inFlight h hin
  obtain ⟨v', r', htake, hcons, hbatch⟩ :=
    Ring.takeHeld_queue (r := { r with semFull := r.inFlight - 1, rheld := true }) rfl
      (by rw [Ring.holding_inFlight hin]; exact Ring.inFlight_cases h hin) hpos hcap
  rw [Ring.holding_unread hin, hu, List.cons.injEq] at hcons
  obtain ⟨rfl, hrest⟩ := hcons
  exact ⟨r', by rw [Ring.reading_of_ringWf h, htake], hrest.symm, hbatch⟩

/-! ### The commands -/

/-- A writer that holds an array, or can take one, puts the word at the end of the contents (R204). -/
theorem execRingAppend_queue {s : State} (w : Word) (hcfg : s.cfg.wf = true)
    (hmode : s.cfg.channelMode = .ring)
    (hwf : ringWf s.cfg.ringCap s.cfg.ringBatch s.ring = true)
    (hholds : s.ring.wheld = true ∨ s.ring.semEmpty ≠ 0) :
    ∃ r v, execRingAppend w s = .next ({ s with ring := r }.respond .ok v) ∧
      r.contents = s.ring.contents ++ [w] := by
  obtain ⟨hone, hcap⟩ := Config.ringBatch_bounds hcfg
  refine ⟨_, _, execRingAppend_of_hasRoom w hmode
    (Ring.hasRoom_of_ringWf hwf hone hcap hholds) rfl, ?_⟩
  rw [Ring.appended_contents w (Ring.writing_writesNext hwf hholds), Ring.writing_contents]

/-- A flush publishes the writer's batch, and so moves no word and leaves none unpublished (R207). -/
theorem execRingFlush_queue {s : State} (hmode : s.cfg.channelMode = .ring)
    (hwf : ringWf s.cfg.ringCap s.cfg.ringBatch s.ring = true) :
    ∃ t, execRingFlush s = .next t ∧ t.ring.contents = s.ring.contents ∧ t.ring.batch = [] := by
  by_cases hnothing : s.ring.wheld = false ∨ s.ring.wcount = 0
  · refine ⟨_, execRingFlush_of_nothing hmode hnothing, by simp, ?_⟩
    obtain h | h := hnothing <;> simp [Ring.batch, h]
  · obtain ⟨hheld, hcount⟩ := not_or.1 hnothing
    rw [Bool.not_eq_false] at hheld
    have hnext : s.ring.WritesNext := by
      simpa [Ring.writing, hheld] using Ring.writing_writesNext hwf (.inl hheld)
    refine ⟨_, execRingFlush_of_held hmode hheld (Nat.pos_of_ne_zero hcount), ?_, ?_⟩
    · simpa using Ring.publish_contents hnext
    · simpa using s.ring.publish_batch

/-- Settles O53: what an append, a publication and a take do to the ring (`appended_contents`,
`publish_contents`, `takeHeld_of_unread`), by way of what each command leaves there. -/
theorem ringIsAQueue : Obligations.RingIsAQueue := by
  intro s hcfg hmode hwf
  refine ⟨fun w => ?append, execRingFlush_queue hmode hwf, fun hu => ?nothing,
    fun v rest hu => ?pop⟩
  case append =>
    by_cases hsat : s.ring.wheld = false ∧ s.ring.semEmpty = 0
    · obtain ⟨hheld, hsem⟩ := hsat
      exact ⟨_, execRingAppend_of_saturated w hmode hheld hsem,
        .inr ⟨(answered_respond_iff rfl (s.count_port _ _)).2 rfl, by simp,
          State.respond_counters ..⟩⟩
    · obtain ⟨r, v, hexec, hcontents⟩ := execRingAppend_queue w hcfg hmode hwf
        (by simpa using not_and_or.1 hsat)
      exact ⟨_, hexec, .inl ⟨v, (answered_respond_iff rfl rfl).2 rfl, by simpa using hcontents,
        by simp⟩⟩
  case nothing =>
    obtain ⟨hheld, hsem⟩ := (Ring.unread_eq_nil_iff hwf).1 hu
    exact execRingPop_of_nothing hmode hheld hsem
  case pop =>
    obtain ⟨hholds, r, htake, hrest, hbatch⟩ := Ring.takeHeld_of_unread hwf hu
    exact ⟨_, execRingPop_of_take hmode hholds htake, (answered_respond_iff rfl rfl).2 rfl,
      by simpa using hrest, by simpa using hbatch⟩

end Sys2Proof.Machine
end

section
/-! ## The control commands (R188, R230, R232, R233) -/

namespace Sys2Proof

/-! ### Why a class-Z word is refused (R96) -/

/-- The row of an OP byte is the one the table lookup by OP finds. -/
theorem find?_op_of_mem {r : Row} (hr : r ∈ rows) :
    rows.find? (fun r' => r'.op == r.op) = some r := by
  cases hfind : rows.find? (fun r' => r'.op == r.op) with
  | none => simpa using List.find?_eq_none.1 hfind r hr
  | some r' =>
    have hop : r'.op = r.op := by simpa using List.find?_some hfind
    rw [rows_op_unique (List.mem_of_find?_eq_some hfind) hr hop]

/-- A word that no row selects is refused for `illegalReason` (R96). -/
theorem decode_of_none_selects {t : Txn} (h : ∀ r ∈ rows, ¬ r.selects t.cmd = true) :
    decode t = .error (illegalReason t) := by
  have hfind : rows.find? (fun r => r.selects t.cmd) = none := List.find?_eq_none.2 h
  rw [decode, hfind]

/-- A class-Z opcode with SEL not 0 is refused for its SEL (R92, R96). -/
theorem decode_of_sel_ne_zero {r : Row} (hr : r ∈ rows) (hcls : r.cls = .z) {sel : BitVec 8}
    (hsel : sel ≠ 0) (a b : Word) :
    decode ⟨r.op ++ sel, a, b⟩ = .error (.selNotZero r.op sel) := by
  have hnone : ∀ r' ∈ rows, ¬ r'.selects (r.op ++ sel) = true := by
    rw [Row.none_selects_iff hr, hcls, Ne, SelClass.read_z_eq_iff]
    exact hsel
  have htop : Txn.op ⟨r.op ++ sel, a, b⟩ = r.op := BitVec.extractLsb'_append_eq_left
  have htsel : Txn.sel ⟨r.op ++ sel, a, b⟩ = sel := BitVec.extractLsb'_append_eq_right
  rw [decode_of_none_selects hnone]
  simp only [illegalReason, htop, htsel, find?_op_of_mem hr, hcls]

end Sys2Proof

namespace Sys2Proof.Machine

/-! ### NOP (R230) -/

/-- Settles O7: NOP's row reads no operand and refuses every other SEL (`decode_of_sel_ne_zero`). -/
theorem nopAnswersOk : Obligations.NopAnswersOk := by
  refine fun s a b => ⟨?decodes, rfl, fun sel hsel => ?illegal⟩
  case decodes => exact decode_of_encode_no_operands (op := 0x00) (sel := 0) (by decide) rfl a b
  case illegal =>
    exact decode_of_sel_ne_zero (r := ⟨"NOP", .z, 0x00, 0, fun _ => .nop⟩)
      (List.mem_of_getElem? (i := 0) rfl) rfl hsel a b

/-! ### SET_FORMAT (R188, R232) -/

theorem rateOf_eq_some_iff {a : Word} {r : Rate} : rateOf a = some r ↔ a.toNat = r.hz := by
  cases r with
  | r44100 => simp [rateOf, Rate.hz, ← BitVec.toNat_inj]
  | r48000 =>
    by_cases h : a.toNat = 44100 <;> simp [rateOf, Rate.hz, ← BitVec.toNat_inj, h]

theorem depthOf_eq_some_iff {b : Word} {d : Depth} : depthOf b = some d ↔ b.toNat = d.bits := by
  cases d with
  | d16 => simp [depthOf, Depth.bits, ← BitVec.toNat_inj]
  | d24 =>
    by_cases h : b.toNat = 16 <;> simp [depthOf, Depth.bits, ← BitVec.toNat_inj, h]

theorem rateOf_eq_none_iff {a : Word} :
    rateOf a = none ↔ a.toNat ≠ 44100 ∧ a.toNat ≠ 48000 := by
  simp only [Option.eq_none_iff_forall_ne_some, ne_eq, rateOf_eq_some_iff]
  exact ⟨fun h => ⟨h .r44100, h .r48000⟩, fun ⟨h441, h480⟩ r => by cases r <;> assumption⟩

theorem depthOf_eq_none_iff {b : Word} :
    depthOf b = none ↔ b.toNat ≠ 16 ∧ b.toNat ≠ 24 := by
  simp only [Option.eq_none_iff_forall_ne_some, ne_eq, depthOf_eq_some_iff]
  exact ⟨fun h => ⟨h .d16, h .d24⟩, fun ⟨h16, h24⟩ d => by cases d <;> assumption⟩

theorem execSetFormat_of_accepted {a b : Word} {r : Rate} {d : Depth} (s : State)
    (hr : rateOf a = some r) (hd : depthOf b = some d) :
    execSetFormat a b s = .next ((s.applyFormat r d).respond .ok 0) := by
  simp only [execSetFormat, hr, hd]

/-- One operand out of place is enough: nothing changes (R232). -/
theorem execSetFormat_of_rejected {a b : Word} (s : State)
    (h : rateOf a = none ∨ depthOf b = none) :
    execSetFormat a b s = .next (s.respond .eformat 0) := by
  unfold execSetFormat
  split
  next hr hd => simp [hr, hd] at h
  next => rfl

/-- Settles O8: the two answers of SET_FORMAT, by what the operands name; `applyFormat` resets the
double buffers field by field. -/
theorem setFormatIsAllOrNothing : Obligations.SetFormatIsAllOrNothing := by
  refine fun s a b => ⟨decode_encode (.setFormat a b), fun rate depth ha hb => ?accepted,
    fun h => ?rejected⟩
  case accepted =>
    exact execSetFormat_of_accepted s (rateOf_eq_some_iff.2 ha) (depthOf_eq_some_iff.2 hb)
  case rejected =>
    exact execSetFormat_of_rejected s (h.imp rateOf_eq_none_iff.2 depthOf_eq_none_iff.2)

/-! ### STATS_CLEAR (R233) -/

/-- Settles O9: STATS_CLEAR writes the counter file in which every counter reads 0. -/
theorem statsClearZeroesTheCounters : Obligations.StatsClearZeroesTheCounters := fun _ a b =>
  ⟨decode_of_encode_no_operands (op := 0x03) (sel := 0) (by decide) rfl a b,
    Counters.zero, Counters.zero_get, rfl⟩

end Sys2Proof.Machine
end

section
/-! ## The two operations every command ends with, and who takes a step (R15, R250, R255, R256) -/

namespace Sys2Proof.Machine

/-! ### `respond` and `count` -/

/-- A response is written in the ports only (R250). -/
theorem State.respond_except_ports (s : State) (st : Status) (v : Word) :
    { s.respond st v with portA := s.portA, portB := s.portB } = s := by
  unfold State.respond
  cases s.active <;> rfl

/-- A counter goes up modulo 2^32 (R15). -/
theorem Counters.bump_get_toNat (k : Counters) (c d : CounterId) :
    ((k.bump c).get d).toNat =
      if c = d then ((k.get d).toNat + 1) % 2 ^ 32 else (k.get d).toNat := by
  rw [Counters.bump_get]
  split
  · exact BitVec.toNat_add ..
  · rfl

/-- Settles O1: what `respond` leaves in each port, and what `count` leaves in each counter. -/
theorem respondAndCountChangeOnlyTheirOwn : Obligations.RespondAndCountChangeOnlyTheirOwn := by
  refine ⟨fun s st v => ⟨?answered, ?cmd, ?hold, ?other, s.respond_except_ports st v⟩,
    fun s c d => ⟨s.counters.bump_get_toNat c d, rfl⟩⟩
  case answered => exact (answered_respond_iff rfl rfl).2 rfl
  all_goals simp

/-! ### TX_TICK goes first, and a busy port accepts nothing -/

theorem portStep_of_txTickEnabled {s : State} (h : s.txTickEnabled = true) (p : PortId) :
    portStep p s = .next s := if_pos h

theorem portStep_of_idle {s : State} {p : PortId} (hhold : (s.port p).hold = .none)
    (hcmd : (s.port p).cmd = none) : portStep p s = .next s := by
  simp [portStep, hhold, hcmd]

/-- A command presented while TX_TICK is enabled waits in its port (R255). -/
theorem runEvent_command_of_txTickEnabled {s : State} {p : PortId} (t : Txn)
    (htick : s.txTickEnabled = true) (hfree : s.portFree p = true) :
    runEvent (.command p t) s = .next (s.present p t) :=
  (if_pos hfree).trans (portStep_of_txTickEnabled (by simpa using htick) p)

theorem runEvent_command_of_busy {s : State} {p : PortId} (t : Txn)
    (h : s.portFree p = false) : runEvent (.command p t) s = .next s :=
  if_neg (Bool.not_eq_true _ ▸ h)

/-- Settles O39: the port's step and the acceptance of a command, each enabled and not. -/
theorem tickGoesFirstAndBusyPortsAcceptNothing :
    Obligations.TickGoesFirstAndBusyPortsAcceptNothing := by
  refine fun s p t => ⟨fun h => portStep_of_txTickEnabled h p,
    runEvent_command_of_txTickEnabled t, fun hbusy => runEvent_command_of_busy t ?busy,
    fun hcmd hhold => portStep_of_idle hhold hcmd⟩
  case busy =>
    rw [← Bool.not_eq_true, State.portFree_iff]
    rintro ⟨hhold, hcmd⟩
    exact hbusy.elim (· hcmd) (· hhold)

end Sys2Proof.Machine
end

section
/-! ## All that a command can do (R250 to R252, R256)

Every command waits, or enters FWD, or changes the block and then responds once, or stops at an
index outside an array. Each of these outcomes is described once, with what holds of it; the rules
about responses, rejections, waiting and progress are then read off the four cases. -/

namespace Sys2Proof.Machine

/-! ### The cursors that the commands read and write at -/

/-- No command can meet an index outside an array: the buffers fit theirs (R28 (1)), and the writer
and the reader of the ring, once they hold an array, are inside it (R204, R208). -/
structure State.InBounds (s : State) : Prop where
  buffers : ∀ i b, ((s.db i).buf b).size ≤ s.cfg.dbCap
  writer : s.ring.wheld = true ∨ s.ring.semEmpty ≠ 0 → s.ring.writing.wcount < s.cfg.ringCap
  reader : s.ring.rheld = true ∨ s.ring.semFull ≠ 0 → s.ring.reading.rpos < s.cfg.ringCap

/-- In bounds a buffer with an element left gives it (R162, R184). -/
theorem State.InBounds.take_ne_error {s : State} (h : s.InBounds) {i : Inst}
    (hleft : ((s.db i).buf (s.db i).r).pos < ((s.db i).buf (s.db i).r).size) (e : Fault) :
    (s.db i).take s.cfg.dbCap ≠ .error e := by
  have hsize := h.buffers i (s.db i).r
  rw [DBuf.take_eq, if_pos (by omega)]
  simp

/-! ### The commands that wait -/

theorem waits_genPush_iff {w : Word} {s : State} :
    waits (.genPush w) s = true ↔ w ≠ 0 ∧ s.cfg.genQDepth ≤ s.genQ.length := by
  have h : waits (.genPush w) s = (decide (w ≠ 0) && !s.genSpace) := rfl
  simp [h, State.genSpace]

theorem waits_fifoPush_iff {w : Word} {s : State} :
    waits (.fifoPush w) s = true ↔ s.cfg.channelMode = .fifo ∧ s.fifoFull = true := by
  have h : waits (.fifoPush w) s = (decide (s.cfg.channelMode = .fifo) && s.fifoFull) := rfl
  simp [h]

theorem waits_fifoPop_iff {s : State} :
    waits .fifoPop s = true ↔ s.cfg.channelMode = .fifo ∧ s.fifoFull = false := by
  have h : waits .fifoPop s = (decide (s.cfg.channelMode = .fifo) && !s.fifoFull) := rfl
  simp [h]

/-- Only GEN_PUSH, FIFO_PUSH and FIFO_POP wait (R256). -/
theorem waits_iff {i : Instr} {s : State} :
    waits i s = true ↔
      (∃ w : Word, i = .genPush w ∧ w ≠ 0 ∧ s.cfg.genQDepth ≤ s.genQ.length) ∨
      (∃ w : Word, i = .fifoPush w ∧ s.cfg.channelMode = .fifo ∧ s.fifoFull = true) ∨
      (i = .fifoPop ∧ s.cfg.channelMode = .fifo ∧ s.fifoFull = false) := by
  cases i with
  | genPush w => simp [waits_genPush_iff]
  | fifoPush w => simp [waits_fifoPush_iff]
  | fifoPop => simp [waits_fifoPop_iff]
  | _ => exact iff_of_false Bool.false_ne_true (by simp)

/-! ### The outcomes -/

/-- The two ports, and which of them is active. -/
def State.ports (s : State) : PortState × PortState × PortId := (s.portA, s.portB, s.active)

theorem State.ports_eq_iff {s t : State} :
    t.ports = s.ports ↔ t.active = s.active ∧ ∀ p, t.port p = s.port p := by
  constructor
  · intro h
    simp only [State.ports, Prod.mk.injEq] at h
    obtain ⟨ha, hb, hactive⟩ := h
    exact ⟨hactive, fun p => by cases p <;> assumption⟩
  · rintro ⟨hactive, hport⟩
    exact Prod.ext (hport .a) (Prod.ext (hport .b) hactive)

@[simp] theorem State.setDb_ports (s : State) (i : Inst) (d : DBuf) :
    (s.setDb i d).ports = s.ports := by cases i <;> rfl

/-- Command `i` may answer `st` with VALUE `v`: its row of R250, and the statuses that carry a
VALUE. -/
def MayRespond (i : Instr) (s : State) (st : Status) (v : Word) : Prop :=
  st ∈ mayAnswer i ∧
    (v = 0 ∨ st = .ok ∨ st = .pdmWord ∨ st = .noise ∨ (st = .busy ∧ i = .rxPoll) ∨
      (st = .erange ∧ (∃ (k : Inst) (x : Word), i = .dbPut k x) ∧ v = natU32 s.cfg.dbCap))

/-- What command `i` can do in state `s`. -/
inductive ExecOutcome (i : Instr) (s : State) : Result → Prop
  /-- The hold condition is false, and nothing changes (R256). -/
  | waits (h : waits i s = true) : ExecOutcome i s (.next s)
  /-- RX_POLL takes a measurement and holds its value for the FIFO slot (R166). -/
  | holds {m : Word} {rest : List Word} (v : Word) (hi : i = .rxPoll)
      (hmode : s.cfg.channelMode = .fifo) (hq : s.detQ = m :: rest) :
      ExecOutcome i s (.next (({ s with detQ := rest }.count .rxAccept).holdForward v))
  /-- The block goes to `s'`, its ports untouched, and the command answers; a status of 5 or more
  leaves the block as it is (R250, R251). -/
  | answers {s' : State} {st : Status} {v : Word} (hports : s'.ports = s.ports)
      (hmay : MayRespond i s st v) (hreject : 5 ≤ st.code.toNat → s' = s) :
      ExecOutcome i s (.next (s'.respond st v))
  /-- An index outside an array (log 7). -/
  | faults (h : ¬ s.InBounds) : ExecOutcome i s (.fault .arrayBounds)

/-- An answer with VALUE 0 that leaves the block as it is. -/
theorem ExecOutcome.of_same {i : Instr} {s : State} {st : Status} (h : st ∈ mayAnswer i) :
    ExecOutcome i s (.next (s.respond st 0)) :=
  .answers rfl ⟨h, .inl rfl⟩ fun _ => rfl

/-- An answer with a status below 5. -/
theorem ExecOutcome.of_low {i : Instr} {s s' : State} {st : Status} {v : Word}
    (hports : s'.ports = s.ports) (hmay : MayRespond i s st v) (hlow : st.code.toNat < 5) :
    ExecOutcome i s (.next (s'.respond st v)) :=
  .answers hports hmay fun h => absurd h hlow.not_ge

/-- Every command may answer OK. -/
theorem ok_mem_mayAnswer (i : Instr) : .ok ∈ mayAnswer i := by
  cases i <;> exact .head _

theorem ExecOutcome.of_ok {i : Instr} {s s' : State} {v : Word} (hports : s'.ports = s.ports) :
    ExecOutcome i s (.next (s'.respond .ok v)) :=
  .of_low hports ⟨ok_mem_mayAnswer i, .inr (.inl rfl)⟩ (by decide)

/-! ### The outcome of each command -/

theorem execPdmStep_outcome (x : Word) (s : State) :
    ExecOutcome (.pdmStep x) s (execPdmStep x s) := by
  unfold execPdmStep
  split
  · dsimp only
    split
    · exact .of_low rfl (by simp [MayRespond, mayAnswer]) (by decide)
    · exact .of_ok rfl
  · exact .of_same (by simp [mayAnswer])

theorem execGenPush_outcome (w : Word) (s : State) :
    ExecOutcome (.genPush w) s (execGenPush w s) := by
  by_cases hw : w = 0
  · subst hw
    rw [execGenPush_zero]
    exact .of_same (by simp [mayAnswer])
  obtain hspace | hfull := Nat.lt_or_ge s.genQ.length s.cfg.genQDepth
  · rw [execGenPush_of_space hw hspace]
    exact .of_ok rfl
  · rw [execGenPush_of_full hw hfull]
    exact .waits (waits_genPush_iff.2 ⟨hw, hfull⟩)

theorem execDetPop_outcome (s : State) : ExecOutcome .detPop s (execDetPop s) := by
  unfold execDetPop
  split
  · exact .of_same (by simp [mayAnswer])
  · exact .of_ok rfl

theorem execRxCorrect_outcome (m : Word) (s : State) :
    ExecOutcome (.rxCorrect m) s (execRxCorrect m s) := by
  unfold execRxCorrect
  dsimp only
  split
  · exact .of_ok rfl
  · exact .of_low rfl (by simp [MayRespond, mayAnswer]) (by decide)

/-- BUSY carries the value that the ring dropped (R166). -/
theorem execRxPoll_outcome (s : State) : ExecOutcome .rxPoll s (execRxPoll s) := by
  cases hq : s.detQ with
  | nil =>
    rw [execRxPoll_of_nil hq]
    exact .of_same (by simp [mayAnswer])
  | cons m rest =>
    cases haccept : accept s.cfg m with
    | false =>
      rw [execRxPoll_of_noise hq haccept]
      exact .of_low rfl (by simp [MayRespond, mayAnswer]) (by decide)
    | true =>
      rw [execRxPoll_of_accept hq haccept]
      obtain ⟨hmode, -, h⟩ | ⟨-, -, h⟩ | ⟨-, -, -, h⟩ | ⟨-, -, -, h⟩ | ⟨-, hholds, hout, h⟩ :=
        State.forward_cases ({ s with detQ := rest }.count .rxAccept) (toU32 (corr s.cfg m)) <;>
        rw [h]
      case inl => exact .holds _ rfl hmode hq
      case inr.inl | inr.inr.inr.inl => exact .of_ok rfl
      case inr.inr.inl =>
        exact .of_low rfl (by simp [MayRespond, mayAnswer]) (by decide)
      case inr.inr.inr.inr => exact .faults fun hin => (hin.writer hholds).not_ge hout

theorem execDbBegin_outcome (k : Inst) (s : State) :
    ExecOutcome (.dbBegin k) s (execDbBegin k s) := by
  unfold execDbBegin
  dsimp only
  split
  · exact .of_same (by simp [mayAnswer])
  · split
    · exact .of_low rfl (by simp [MayRespond, mayAnswer]) (by decide)
    · exact .of_ok (by simp)

/-- ERANGE carries DB_CAP where the unit is full (R181). -/
theorem execDbPut_outcome (k : Inst) (x : Word) (s : State) :
    ExecOutcome (.dbPut k x) s (execDbPut k x s) := by
  unfold execDbPut
  dsimp only
  split
  · exact .of_same (by simp [mayAnswer])
  split
  · exact .of_same (by simp [mayAnswer])
  split
  · exact .answers rfl (by simp [MayRespond, mayAnswer]) fun _ => rfl
  case isFalse hfull =>
    rw [memWrite_eq]
    split
    case isTrue => exact .of_ok (by simp)
    case isFalse hout =>
      exact .faults fun hin => hout (lt_of_le_of_ne (hin.buffers k (s.db k).w) hfull)

theorem execDbCommit_outcome (k : Inst) (s : State) :
    ExecOutcome (.dbCommit k) s (execDbCommit k s) := by
  unfold execDbCommit
  dsimp only
  split
  · exact .of_same (by simp [mayAnswer])
  · split
    · exact .of_low (by simp) (by simp [MayRespond, mayAnswer]) (by decide)
    · exact .of_ok (by simp)

theorem execDbGet_outcome (k : Inst) (s : State) : ExecOutcome (.dbGet k) s (execDbGet k s) := by
  cases k with
  | tx => exact .of_same (by simp [mayAnswer])
  | rx =>
    unfold execDbGet
    dsimp only
    split
    · exact .of_same (by simp [mayAnswer])
    split
    · exact .of_low rfl (by simp [MayRespond, mayAnswer]) (by decide)
    case isFalse hleft =>
      cases htake : s.dbRx.take s.cfg.dbCap with
      | ok x => exact .of_ok rfl
      | error e =>
        exact .faults fun hin => hin.take_ne_error (i := .rx) (Nat.lt_of_not_ge hleft) e htake

theorem execFifoPush_outcome (w : Word) (s : State) :
    ExecOutcome (.fifoPush w) s (execFifoPush w s) := by
  cases hmode : s.cfg.channelMode with
  | ring => rw [execFifoPush_of_ring w hmode]; exact .of_same (by simp [mayAnswer])
  | fifo =>
    cases hslot : s.fifoFull with
    | true =>
      rw [execFifoPush_of_full w hmode hslot]
      exact .waits (waits_fifoPush_iff.2 ⟨hmode, hslot⟩)
    | false => rw [execFifoPush_of_free w hmode hslot]; exact .of_ok rfl

theorem execFifoPop_outcome (s : State) : ExecOutcome .fifoPop s (execFifoPop s) := by
  cases hmode : s.cfg.channelMode with
  | ring => rw [execFifoPop_of_ring hmode]; exact .of_same (by simp [mayAnswer])
  | fifo =>
    cases hslot : s.fifoFull with
    | true => rw [execFifoPop_of_full hmode hslot]; exact .of_ok rfl
    | false =>
      rw [execFifoPop_of_empty hmode hslot]
      exact .waits (waits_fifoPop_iff.2 ⟨hmode, hslot⟩)

theorem execRingAppend_outcome (w : Word) (s : State) :
    ExecOutcome (.ringAppend w) s (execRingAppend w s) := by
  unfold execRingAppend
  split
  · exact .of_same (by simp [mayAnswer])
  rw [State.ringAppend_eq]
  split
  · exact .of_low rfl (by simp [MayRespond, mayAnswer]) (by decide)
  case isFalse hsome =>
    split
    · exact .of_ok rfl
    case isFalse hout =>
      exact .faults fun hin => hout (hin.writer (by simpa using not_and_or.1 hsome))

theorem execRingFlush_outcome (s : State) : ExecOutcome .ringFlush s (execRingFlush s) := by
  unfold execRingFlush
  split
  · exact .of_same (by simp [mayAnswer])
  · split
    · exact .of_ok rfl
    · exact .of_same (by simp [mayAnswer])

theorem execRingPop_outcome (s : State) : ExecOutcome .ringPop s (execRingPop s) := by
  unfold execRingPop
  split
  · exact .of_same (by simp [mayAnswer])
  rw [Ring.acquireFull_eq]
  by_cases hnone : s.ring.rheld = false ∧ s.ring.semFull = 0
  · rw [if_pos hnone]
    exact .of_same (by simp [mayAnswer])
  · rw [if_neg hnone]
    dsimp only
    rw [Ring.takeHeld_eq]
    split
    case isTrue => exact .of_ok rfl
    case isFalse hout =>
      exact .faults fun hin => hout (hin.reader (by simpa using not_and_or.1 hnone))

/-- All that a command can do. -/
theorem exec_outcome (i : Instr) (s : State) : ExecOutcome i s (exec i s) := by
  cases i with
  | nop => exact .of_ok rfl
  | statsClear => exact .of_ok rfl
  | csrRead | setFormat | ppmEncode | ppmDecode | downmix =>
    simp only [exec, execCsrRead, execSetFormat, execPpmEncode, execPpmDecode, execDownmix]
    split
    · exact .of_ok rfl
    · exact .of_same (by simp [mayAnswer])
  | pdmStep x => exact execPdmStep_outcome x s
  | genPush w => exact execGenPush_outcome w s
  | detPop => exact execDetPop_outcome s
  | rxCorrect m => exact execRxCorrect_outcome m s
  | rxPoll => exact execRxPoll_outcome s
  | dbBegin k => exact execDbBegin_outcome k s
  | dbPut k x => exact execDbPut_outcome k x s
  | dbCommit k => exact execDbCommit_outcome k s
  | dbGet k => exact execDbGet_outcome k s
  | fifoPush w => exact execFifoPush_outcome w s
  | fifoPop => exact execFifoPop_outcome s
  | ringAppend w => exact execRingAppend_outcome w s
  | ringFlush => exact execRingFlush_outcome s
  | ringPop => exact execRingPop_outcome s

/-! ### What the outcomes say of the responses -/

/-- A command that leaves its port's responses as they are has not answered. -/
theorem not_answered_of_eq {p : PortId} {s t : State} {r : Response}
    (h : (t.port p).responses = (s.port p).responses) : ¬ answered p s t r := by
  simp [answered, h]

theorem answered_respond_of_ports {s s' : State} (h : s'.ports = s.ports) (st : Status)
    (v : Word) (r : Response) : answered s.active s (s'.respond st v) r ↔ r = ⟨st, v⟩ := by
  obtain ⟨hactive, hport⟩ := State.ports_eq_iff.1 h
  exact answered_respond_iff hactive (hport s.active)

/-- Settles O45: of the four outcomes only an answer responds, and one with a status of 5 or more
keeps the block. -/
theorem rejectionsChangeNoState : Obligations.RejectionsChangeNoState := by
  intro i s t st v h hanswered hcode
  have hout := exec_outcome i s
  rw [h] at hout
  cases hout with
  | waits => exact absurd hanswered (not_answered_of_eq rfl)
  | holds => exact absurd hanswered (not_answered_of_eq (by simp))
  | answers hports _ hreject =>
    cases (answered_respond_of_ports hports _ _ _).1 hanswered
    rw [hreject hcode]

/-- Settles O46: the codes by evaluation, the rest by the four outcomes of a command. -/
theorem responsesAreThoseOfTheTable : Obligations.ResponsesAreThoseOfTheTable := by
  refine ⟨rfl, fun i s t h => ?_⟩
  have hout := exec_outcome i s
  rw [h] at hout
  cases hout with
  | waits hwaits => exact ⟨rfl, .inl ⟨hwaits, rfl⟩⟩
  | holds v hi hmode => exact ⟨by simp, .inr (.inl ⟨hi, hmode, by simp, v, by simp⟩)⟩
  | answers hports hmay =>
    obtain ⟨hstatus, hvalue⟩ := hmay
    obtain ⟨hactive, hport⟩ := State.ports_eq_iff.1 hports
    refine ⟨by simp [hactive, hport],
      .inr (.inr ⟨_, _, ?answered, by simp [hactive], hstatus, hvalue⟩)⟩
    exact (answered_respond_of_ports hports _ _ _).2 rfl

/-! ### Waiting -/

theorem exec_of_waits {i : Instr} {s : State} (h : waits i s = true) : exec i s = .next s := by
  obtain ⟨w, rfl, hw, hfull⟩ | ⟨w, rfl, hmode, hfull⟩ | ⟨rfl, hmode, hempty⟩ := waits_iff.1 h
  · exact execGenPush_of_full hw hfull
  · exact execFifoPush_of_full w hmode hfull
  · exact execFifoPop_of_empty hmode hempty

/-- An answer changes the responses, and an RX_POLL that holds takes a measurement out of DET_Q. -/
theorem waits_or_ne_of_exec {i : Instr} {s t : State} (h : exec i s = .next t) :
    waits i s = true ∨ t ≠ s := by
  have hout := exec_outcome i s
  rw [h] at hout
  cases hout with
  | waits hwaits => exact .inl hwaits
  | @holds m rest v _ _ hq =>
    refine .inr fun heq => ?_
    have hrest : rest = s.detQ := by simpa using congrArg State.detQ heq
    exact List.cons_ne_self m rest (hq.symm.trans hrest.symm)
  | answers hports =>
    exact .inr fun heq => not_answered_of_eq (congrArg (fun t => (t.port s.active).responses) heq)
      ((answered_respond_of_ports hports _ _ _).2 rfl)

/-- Settles O47: a command that waits leaves the state as it is; every other outcome changes it. -/
theorem onlyTheThreeBlockingCommandsWait : Obligations.OnlyTheThreeBlockingCommandsWait :=
  fun _ _ => ⟨fun h => waits_iff.1 ((waits_or_ne_of_exec h).resolve_right fun hne => hne rfl),
    fun h => exec_of_waits (waits_iff.2 h)⟩

end Sys2Proof.Machine
end

section
/-! ## No step faults (R252, log 7)

An agent's step stops only outside the bounds of `State.InBounds`, and always by the fault of the
arrays; a well-formed state is in bounds. -/

namespace Sys2Proof.Machine

/-! ### A well-formed state is in bounds -/

/-- The parts of the invariant that the bounds rest on. -/
theorem State.arraysWf_of_wf {s : State} (h : s.wf = true) :
    s.cfg.wf = true ∧ (∀ i, dbWf s.cfg.dbCap (elementOk i s.fmtDepth) (s.db i) = true) ∧
      ringWf s.cfg.ringCap s.cfg.ringBatch s.ring = true := by
  simp only [State.wf, Bool.and_eq_true] at h
  obtain ⟨⟨⟨⟨⟨⟨⟨⟨⟨hcfg, -⟩, -⟩, htx⟩, hrx⟩, hring⟩, -⟩, -⟩, -⟩, -⟩ := h
  exact ⟨hcfg, fun i => by cases i <;> assumption, hring⟩

/-- A writer that holds an array, or can take one, is inside it (R204). -/
theorem Ring.writing_wcount_lt {cap batch : Nat} {r : Ring} (h : ringWf cap batch r = true)
    (hone : 1 ≤ batch) (hcap : batch ≤ cap) (hholds : r.wheld = true ∨ r.semEmpty ≠ 0) :
    r.writing.wcount < cap := by
  obtain ⟨-, hlt⟩ := Ring.hasRoom_iff.1 (Ring.hasRoom_of_ringWf h hone hcap hholds)
  rw [Ring.writing_eq]
  exact hlt

/-- A reader that holds an array, or can take one, is inside it (R208). -/
theorem Ring.reading_rpos_lt {cap batch : Nat} {r : Ring} (h : ringWf cap batch r = true)
    (hholds : r.rheld = true ∨ r.semFull ≠ 0) : r.reading.rpos < cap := by
  have hin : r.inFlight ≠ 0 := by
    rw [Ne, Ring.inFlight_eq_zero_iff]
    rintro ⟨hheld, hfull⟩
    simp [hheld, hfull] at hholds
  obtain ⟨hpos, hsize⟩ := Ring.rpos_lt_of_inFlight h hin
  rw [Ring.reading_of_ringWf h]
  exact hpos.trans_le hsize

theorem State.inBounds_of_wf {s : State} (h : s.wf = true) : s.InBounds := by
  obtain ⟨hcfg, hdb, hring⟩ := State.arraysWf_of_wf h
  obtain ⟨hone, hcap⟩ := Config.ringBatch_bounds hcfg
  refine ⟨fun i b => ?_, Ring.writing_wcount_lt hring hone hcap, Ring.reading_rpos_lt hring⟩
  obtain ⟨-, -, -, hsize, -⟩ := bufWf_iff.1 (dbWf_buf (hdb i) b)
  exact hsize

/-- The bounds concern the build, the double buffers and the ring alone. -/
theorem State.InBounds.congr {s s' : State} (h : s.InBounds) (hcfg : s'.cfg = s.cfg)
    (hdb : ∀ i, s'.db i = s.db i) (hring : s'.ring = s.ring) : s'.InBounds where
  buffers := by simpa only [hcfg, hdb] using h.buffers
  writer := by simpa only [hcfg, hring] using h.writer
  reader := by simpa only [hcfg, hring] using h.reader

/-! ### Where a step stops -/

/-- The outcome is a next state, or it is a fault and `s` is out of bounds. -/
def StopsOnlyOutOfBounds (s : State) (r : Result) : Prop :=
  (∃ t, r = .next t) ∨ ((∃ e, r = .fault e) ∧ ¬ s.InBounds)

theorem StopsOnlyOutOfBounds.next (s t : State) : StopsOnlyOutOfBounds s (.next t) :=
  .inl ⟨t, rfl⟩

theorem StopsOnlyOutOfBounds.congr {s s' : State} {r : Result} (h : StopsOnlyOutOfBounds s' r)
    (hcfg : s'.cfg = s.cfg) (hdb : ∀ i, s'.db i = s.db i) (hring : s'.ring = s.ring) :
    StopsOnlyOutOfBounds s r :=
  h.imp_right fun ⟨hfault, hout⟩ => ⟨hfault, fun hin => hout (hin.congr hcfg hdb hring)⟩

theorem exec_stops_only_out_of_bounds (i : Instr) (s : State) :
    StopsOnlyOutOfBounds s (exec i s) := by
  have hout := exec_outcome i s
  generalize exec i s = r at hout ⊢
  cases hout with
  | faults hout => exact .inr ⟨⟨_, rfl⟩, hout⟩
  | _ => exact .next s _

theorem takeTick_stops_only_out_of_bounds (s : State) : StopsOnlyOutOfBounds s (takeTick s) := by
  obtain ⟨c, d, -, -, -, h⟩ | ⟨e, -, hleft, htake, h⟩ | ⟨-, -, h⟩ | ⟨-, h⟩ := takeTick_cases s <;>
    rw [h]
  case inr.inl =>
    exact .inr ⟨⟨e, rfl⟩, fun hin => hin.take_ne_error (i := .tx) hleft e htake⟩
  all_goals exact .next s _

theorem portStep_stops_only_out_of_bounds (p : PortId) (s : State) :
    StopsOnlyOutOfBounds s (portStep p s) := by
  obtain ⟨-, h⟩ | ⟨v, -, -, h⟩ | ⟨t, i, -, -, -, -, h⟩ | ⟨t, r, -, -, -, -, h⟩ | ⟨-, -, -, h⟩ :=
    portStep_cases p s <;> rw [h]
  case inr.inr.inl =>
    exact (exec_stops_only_out_of_bounds i { s with active := p }).congr rfl (by simp) rfl
  all_goals exact .next s _

theorem runEvent_stops_only_out_of_bounds (e : Event) (s : State) :
    StopsOnlyOutOfBounds s (runEvent e s) := by
  cases e with
  | command p t =>
    simp only [runEvent]
    split
    · exact (portStep_stops_only_out_of_bounds p (s.present p t)).congr (by simp) (by simp)
        (by simp)
    · exact .next s _
  | proceed p => exact portStep_stops_only_out_of_bounds p s
  | txTick =>
    simp only [runEvent]
    split
    · exact takeTick_stops_only_out_of_bounds s
    · exact .next s _
  | _ => exact .next s _

/-- The choice of the next event leaves the bounds alone. -/
theorem step_stops_only_out_of_bounds (s : State) : StopsOnlyOutOfBounds s (step s) := by
  have hdb {script : List Event} {draws : Nat} (i : Inst) :
      { s with script := script, draws := draws }.db i = s.db i := by cases i <;> rfl
  obtain ⟨e, rest, -, h⟩ | ⟨-, h⟩ := takeStep_cases s <;> rw [step, h]
  · exact (runEvent_stops_only_out_of_bounds e _).congr rfl hdb rfl
  · exact (runEvent_stops_only_out_of_bounds _ _).congr rfl hdb rfl

/-- Settles O44: a step stops only out of bounds, by a fault; a well-formed state is in bounds. -/
theorem noStepFaults : Obligations.NoStepFaults := by
  refine ⟨fun s hwf => ?progress, fun s r h => ?refused⟩
  case progress =>
    exact (step_stops_only_out_of_bounds s).resolve_right fun ⟨_, hout⟩ =>
      hout (State.inBounds_of_wf hwf)
  case refused =>
    obtain ⟨t, ht⟩ | ⟨⟨e, he⟩, -⟩ := step_stops_only_out_of_bounds s
    · cases h.symm.trans ht
    · cases h.symm.trans he

end Sys2Proof.Machine
end

section
/-! ## The ports are symmetric (R264)

The block reads and writes its ports through `port`, `setPort`, `respond` and `holdForward` only,
which the exchange moves to the other port; it leaves every other part of the state as it is. -/

namespace Sys2Proof.Machine

/-! ### The exchange of the ports and the operations on the state -/

@[simp] theorem mapNext_next (f : State → State) (t : State) :
    mapNext f (.next t) = .next (f t) := rfl

@[simp] theorem State.swapPorts_port (s : State) (p : PortId) :
    s.swapPorts.port (otherPort p) = s.port p := by cases p <;> rfl

theorem State.swapPorts_setPort (s : State) (p : PortId) (x : PortState) :
    s.swapPorts.setPort (otherPort p) x = (s.setPort p x).swapPorts := by cases p <;> rfl

@[simp] theorem State.swapPorts_active (s : State) :
    s.swapPorts.active = otherPort s.active := rfl

theorem State.swapPorts_respond (s : State) (st : Status) (v : Word) :
    s.swapPorts.respond st v = (s.respond st v).swapPorts := by
  simp only [State.respond, State.swapPorts_active, State.swapPorts_port, State.swapPorts_setPort]

theorem State.swapPorts_holdForward (s : State) (v : Word) :
    s.swapPorts.holdForward v = (s.holdForward v).swapPorts := by
  simp only [State.holdForward, State.swapPorts_active, State.swapPorts_port,
    State.swapPorts_setPort]

theorem State.swapPorts_present (s : State) (p : PortId) (t : Txn) :
    s.swapPorts.present (otherPort p) t = (s.present p t).swapPorts := by
  simp only [State.present, State.swapPorts_port, State.swapPorts_setPort]

theorem State.swapPorts_setDb (s : State) (k : Inst) (d : DBuf) :
    s.swapPorts.setDb k d = (s.setDb k d).swapPorts := by cases k <;> rfl

/-! ### Commands that do not tell the ports apart -/

/-- Exchanging the ports before the step or after it gives the same outcome. -/
def PortSymmetric (x : State → Result) : Prop :=
  ∀ s, x s.swapPorts = mapNext State.swapPorts (x s)

/-- An answer goes to the active port, wherever that is. -/
theorem respond_eq_mapNext {s s' : State} (h : s' = s.swapPorts) (st : Status) (v : Word) :
    .next (s'.respond st v) = mapNext State.swapPorts (.next (s.respond st v)) := by
  rw [h, State.swapPorts_respond, mapNext_next]

/-- So does an answer after a change of a double buffer. -/
theorem setDb_respond_eq_mapNext (s : State) (k : Inst) (d : DBuf) (st : Status) (v : Word) :
    .next ((s.swapPorts.setDb k d).respond st v) =
      mapNext State.swapPorts (.next ((s.setDb k d).respond st v)) :=
  respond_eq_mapNext (s.swapPorts_setDb k d) st v

theorem csrValue_swapPorts (s : State) (csr : BitVec 8) :
    csrValue s.swapPorts csr = csrValue s csr := rfl

theorem execCsrRead_portSymmetric (csr : BitVec 8) : PortSymmetric (execCsrRead csr) := fun s => by
  unfold execCsrRead
  rw [csrValue_swapPorts]
  split <;> exact respond_eq_mapNext (by rfl) _ _

theorem State.swapPorts_ringAppend (s : State) (v : Word) :
    s.swapPorts.ringAppend v = (s.ringAppend v).map fun x => (x.1, x.2.swapPorts) := by
  unfold State.ringAppend
  dsimp only [State.swapPorts]
  cases s.ring.acquireEmpty with
  | none => rfl
  | some r => dsimp only; cases r.appendHeld s.cfg.ringCap s.cfg.ringBatch v <;> rfl

theorem State.swapPorts_forward (s : State) (c : Word) :
    s.swapPorts.forward c = mapNext State.swapPorts (s.forward c) := by
  cases hmode : s.cfg.channelMode with
  | fifo =>
    cases hslot : s.fifoFull with
    | true =>
      rw [State.forward_of_fifo_full c hmode hslot,
        State.forward_of_fifo_full (s := s.swapPorts) c hmode hslot, State.swapPorts_holdForward,
        mapNext_next]
    | false =>
      rw [State.forward_of_fifo_free c hmode hslot,
        State.forward_of_fifo_free (s := s.swapPorts) c hmode hslot]
      exact respond_eq_mapNext (by rfl) _ _
  | ring =>
    have hmode' : s.swapPorts.cfg.channelMode = .ring := hmode
    simp only [State.forward, hmode, hmode', State.swapPorts_ringAppend]
    cases s.ringAppend c with
    | ok x => exact respond_eq_mapNext (by rfl) _ _
    | error e => rfl

theorem execDbPut_portSymmetric (k : Inst) (x : Word) : PortSymmetric (execDbPut k x) := fun s => by
  have hdb : s.swapPorts.db k = s.db k := rfl
  have hcfg : s.swapPorts.cfg = s.cfg := rfl
  have hdepth : s.swapPorts.fmtDepth = s.fmtDepth := rfl
  simp only [execDbPut, hdb, hcfg, hdepth, memWrite_eq]
  split
  · exact respond_eq_mapNext (by rfl) _ _
  split
  · exact respond_eq_mapNext (by rfl) _ _
  split
  · exact respond_eq_mapNext (by rfl) _ _
  split
  · exact setDb_respond_eq_mapNext s k _ _ _
  · rfl

theorem execGenPush_portSymmetric (w : Word) : PortSymmetric (execGenPush w) := fun s => by
  have hspace : s.swapPorts.genSpace = s.genSpace := rfl
  simp only [execGenPush, hspace]
  split
  · exact respond_eq_mapNext (by rfl) _ _
  split
  · exact respond_eq_mapNext (by rfl) _ _
  · rfl

theorem execRxPoll_portSymmetric : PortSymmetric execRxPoll := fun s => by
  dsimp only [execRxPoll, State.swapPorts]
  split
  · exact respond_eq_mapNext (by rfl) _ _
  case h_2 m rest _ =>
    split
    · exact State.swapPorts_forward ({ s with detQ := rest }.count .rxAccept) _
    · exact respond_eq_mapNext (by rfl) _ _

theorem execDbBegin_portSymmetric (k : Inst) : PortSymmetric (execDbBegin k) := fun s => by
  have hdb : s.swapPorts.db k = s.db k := rfl
  simp only [execDbBegin, hdb]
  split
  · exact respond_eq_mapNext (by rfl) _ _
  split
  · exact respond_eq_mapNext (by rfl) _ _
  · exact setDb_respond_eq_mapNext s k _ _ _

theorem execDbCommit_portSymmetric (k : Inst) : PortSymmetric (execDbCommit k) := fun s => by
  have hdb : s.swapPorts.db k = s.db k := rfl
  simp only [execDbCommit, hdb]
  split
  · exact respond_eq_mapNext (by rfl) _ _
  split
  · exact setDb_respond_eq_mapNext s k _ _ _
  · exact setDb_respond_eq_mapNext s k _ _ _

theorem execDbGet_portSymmetric (k : Inst) : PortSymmetric (execDbGet k) := fun s => by
  cases k with
  | tx => exact respond_eq_mapNext (by rfl) _ _
  | rx =>
    dsimp only [execDbGet, State.swapPorts]
    split
    · exact respond_eq_mapNext (by rfl) _ _
    split
    · exact respond_eq_mapNext (by rfl) _ _
    cases s.dbRx.take s.cfg.dbCap with
    | ok x => exact respond_eq_mapNext (by rfl) _ _
    | error e => rfl

theorem execRingAppend_portSymmetric (w : Word) : PortSymmetric (execRingAppend w) := fun s => by
  have hcfg : s.swapPorts.cfg = s.cfg := rfl
  simp only [execRingAppend, hcfg, State.swapPorts_ringAppend]
  split
  · exact respond_eq_mapNext (by rfl) _ _
  cases s.ringAppend w with
  | ok x =>
    obtain ⟨appended, s'⟩ := x
    cases appended <;> exact respond_eq_mapNext (by rfl) _ _
  | error e => rfl

theorem execRingPop_portSymmetric : PortSymmetric execRingPop := fun s => by
  dsimp only [execRingPop, State.swapPorts]
  split
  · exact respond_eq_mapNext (by rfl) _ _
  split
  · exact respond_eq_mapNext (by rfl) _ _
  case h_2 r _ =>
    cases r.takeHeld s.cfg.ringCap with
    | ok x => exact respond_eq_mapNext (by rfl) _ _
    | error e => rfl

/-- No command tells the ports apart. -/
theorem exec_portSymmetric (i : Instr) : PortSymmetric (exec i) := fun s => by
  cases i with
  | nop => exact respond_eq_mapNext (by rfl) _ _
  | statsClear => exact respond_eq_mapNext (by rfl) _ _
  | csrRead csr => exact execCsrRead_portSymmetric csr s
  | setFormat | ppmEncode | ppmDecode | downmix | detPop | rxCorrect =>
    dsimp only [exec, execSetFormat, execPpmEncode, execPpmDecode, execDownmix, execDetPop,
      execRxCorrect, State.swapPorts]
    split <;> exact respond_eq_mapNext (by rfl) _ _
  | pdmStep x =>
    dsimp only [exec, execPdmStep, State.swapPorts]
    split
    · split <;> exact respond_eq_mapNext (by rfl) _ _
    · exact respond_eq_mapNext (by rfl) _ _
  | genPush w => exact execGenPush_portSymmetric w s
  | fifoPush w =>
    dsimp only [exec, execFifoPush, State.swapPorts]
    split
    · exact respond_eq_mapNext (by rfl) _ _
    · split
      · rfl
      · exact respond_eq_mapNext (by rfl) _ _
  | fifoPop =>
    dsimp only [exec, execFifoPop, State.swapPorts]
    split
    · exact respond_eq_mapNext (by rfl) _ _
    · split
      · exact respond_eq_mapNext (by rfl) _ _
      · rfl
  | ringFlush =>
    dsimp only [exec, execRingFlush, State.swapPorts]
    split
    · exact respond_eq_mapNext (by rfl) _ _
    · split <;> exact respond_eq_mapNext (by rfl) _ _
  | rxPoll => exact execRxPoll_portSymmetric s
  | dbBegin k => exact execDbBegin_portSymmetric k s
  | dbPut k x => exact execDbPut_portSymmetric k x s
  | dbCommit k => exact execDbCommit_portSymmetric k s
  | dbGet k => exact execDbGet_portSymmetric k s
  | ringAppend w => exact execRingAppend_portSymmetric w s
  | ringPop => exact execRingPop_portSymmetric s

/-! ### Agents that do not tell the ports apart -/

theorem State.swapPorts_tick (s : State) : s.swapPorts.tick = s.tick.swapPorts := by
  cases h : s.tickPending with
  | true => rw [State.tick_of_pending h, State.tick_of_pending (s := s.swapPorts) h]; rfl
  | false => rw [State.tick_of_not_pending h, State.tick_of_not_pending (s := s.swapPorts) h]; rfl

theorem State.swapPorts_capture (s : State) (m : Word) :
    s.swapPorts.capture m = (s.capture m).swapPorts := by
  obtain h | h := Nat.lt_or_ge s.detQ.length s.cfg.detQDepth
  · rw [State.capture_of_space m h, State.capture_of_space (s := s.swapPorts) m h]; rfl
  · rw [State.capture_of_full m h, State.capture_of_full (s := s.swapPorts) m h]; rfl

theorem State.swapPorts_genStart (s : State) : s.swapPorts.genStart = s.genStart.swapPorts := by
  cases hg : s.genState with
  | low =>
    rw [State.genStart_of_not_enabled (.inl hg),
      State.genStart_of_not_enabled (s := s.swapPorts) (.inl hg)]
  | idle =>
    cases hq : s.genQ with
    | nil =>
      rw [State.genStart_of_not_enabled (.inr hq),
        State.genStart_of_not_enabled (s := s.swapPorts) (.inr hq)]
    | cons w rest =>
      rw [State.genStart_of_idle hg hq, State.genStart_of_idle (s := s.swapPorts) hg hq]
      rfl

theorem State.swapPorts_genEnd (s : State) : s.swapPorts.genEnd = s.genEnd.swapPorts := by
  cases hg : s.genState with
  | low => rw [State.genEnd_of_low hg, State.genEnd_of_low (s := s.swapPorts) hg]; rfl
  | idle => rw [State.genEnd_of_idle hg, State.genEnd_of_idle (s := s.swapPorts) hg]

theorem takeTick_portSymmetric : PortSymmetric takeTick := fun s => by
  dsimp only [takeTick, State.swapPorts]
  split
  · cases s.dbTx.take s.cfg.dbCap <;> rfl
  · rfl

/-! ### The ports' own steps go to the other port -/

theorem State.swapPorts_forwardDone (s : State) (p : PortId) (v : Word) :
    s.swapPorts.forwardDone (otherPort p) v = (s.forwardDone p v).swapPorts := by
  cases hslot : s.fifoFull with
  | true =>
    rw [State.forwardDone_of_full p v hslot, State.forwardDone_of_full (s := s.swapPorts) _ v hslot]
  | false =>
    rw [State.forwardDone_of_free p v hslot, State.forwardDone_of_free (s := s.swapPorts) _ v hslot,
      State.swapPorts_port, ← State.swapPorts_respond, ← State.swapPorts_setPort]
    rfl

theorem runTxn_swapPorts (p : PortId) (t : Txn) (s : State) :
    runTxn (otherPort p) t s.swapPorts = mapNext State.swapPorts (runTxn p t s) := by
  unfold runTxn
  split
  case h_1 i _ => exact exec_portSymmetric i { s with active := p }
  case h_2 => exact respond_eq_mapNext (by rfl) _ _

theorem portStep_swapPorts (p : PortId) (s : State) :
    portStep (otherPort p) s.swapPorts = mapNext State.swapPorts (portStep p s) := by
  have htick : s.swapPorts.txTickEnabled = s.txTickEnabled := rfl
  simp only [portStep, htick, State.swapPorts_port]
  split
  · rfl
  split
  case h_1 v _ => exact congrArg _ (s.swapPorts_forwardDone p v)
  case h_2 t _ _ => exact runTxn_swapPorts p t s
  case h_3 => rfl

/-- Settles O48: no agent tells the ports apart, and a port's own event goes to the other port. -/
theorem thePortsAreSymmetric : Obligations.ThePortsAreSymmetric := by
  intro e s hpow
  cases e with
  | command p t =>
    have hfree : s.swapPorts.portFree (otherPort p) = s.portFree p := by
      simp only [State.portFree, State.swapPorts_port]
    simp only [swapEvent, runEvent, hfree]
    split
    · rw [State.swapPorts_present]
      exact portStep_swapPorts p _
    · rfl
  | proceed p => exact portStep_swapPorts p s
  | tick => exact congrArg _ s.swapPorts_tick
  | txTick =>
    have htick : s.swapPorts.txTickEnabled = s.txTickEnabled := rfl
    simp only [swapEvent, runEvent, htick]
    split
    · exact takeTick_portSymmetric s
    · rfl
  | genStart => exact congrArg _ s.swapPorts_genStart
  | genEnd => exact congrArg _ s.swapPorts_genEnd
  | capture m => exact congrArg _ (s.swapPorts_capture m)
  | powerOn => exact absurd rfl hpow

end Sys2Proof.Machine
end

section
/-! ## What a reset leaves (R280)

The empty double buffer, the empty ring and the fresh block meet their invariants in every build; the
values of R280's table are then read off the block by its kinds of element. -/

namespace Sys2Proof.Machine

/-! ### The empty arrays meet the invariants (R27, R28, R30) -/

/-- An unwritten array is canonical and lists no index, so none outside its length. -/
theorem Memory.fits_unwritten (cap n : Nat) : (Memory.unwritten n).fits cap = true := rfl

theorem bufWf_empty (cap : Nat) (p : Word → Bool) (n : Nat) : bufWf cap p (Buf.empty n) = true :=
  bufWf_iff.2 ⟨Memory.fits_unwritten cap n, Memory.holdsBelow_zero _ p, Nat.le_refl 0,
    Nat.zero_le cap, fun _ => rfl, fun hready => nomatch hready⟩

/-- No unit is open and no buffer is ready, so the order of the buffers (R28 (6)) is the start. -/
theorem dbWf_empty (cap : Nat) (p : Word → Bool) (n : Nat) : dbWf cap p (DBuf.empty n) = true := by
  have h0 : bufWf cap p (DBuf.empty n).buf0 = true := bufWf_empty cap p n
  have h1 : bufWf cap p (DBuf.empty n).buf1 = true := bufWf_empty cap p (n + 1)
  rw [dbWf, h0, h1]
  rfl

/-- Both arrays are free: the two permits of `SEM_EMPTY` are all of R30's sum. -/
theorem ringWf_empty (cap batch n : Nat) : ringWf cap batch (Ring.empty n) = true :=
  ringWf_iff.2 ⟨rfl, rfl, fun k => by cases k <;> rfl, rfl, rfl⟩

/-! ### The block after a reset -/

theorem State.resetAt_db (c : Config) (n : Nat) (i : Inst) :
    ∃ m, (State.resetAt c n).db i = DBuf.empty m := by
  cases i with
  | tx => exact ⟨n, rfl⟩
  | rx => exact ⟨n + 2, rfl⟩

theorem DBuf.empty_buf (n : Nat) (b : Half) : ∃ m, (DBuf.empty n).buf b = Buf.empty m := by
  cases b with
  | false => exact ⟨n, rfl⟩
  | true => exact ⟨n + 1, rfl⟩

/-- The four buffers differ in the seeds of their free words only. -/
theorem State.resetAt_buf (c : Config) (n : Nat) (i : Inst) (b : Half) :
    ∃ m, ((State.resetAt c n).db i).buf b = Buf.empty m := by
  obtain ⟨m, hdb⟩ := State.resetAt_db c n i
  rw [hdb]
  exact DBuf.empty_buf m b

@[simp] theorem State.resetAt_port (c : Config) (n : Nat) (p : PortId) :
    (State.resetAt c n).port p = PortState.idle := by cases p <;> rfl

theorem Ring.empty_array_written (n : Nat) (k : Half) : ((Ring.empty n).array k).written = [] := by
  cases k <;> rfl

/-- The discipline that the build does not have is at its reset values, since both are. -/
theorem modeWf_resetAt (c : Config) (n : Nat) : modeWf (State.resetAt c n) = true := by
  unfold modeWf
  split
  · exact decide_eq_true rfl
  · rfl

/-- The invariant of the whole state holds at reset in every admitted build. -/
theorem State.resetAt_wf {c : Config} (n : Nat) (h : c.wf = true) :
    (State.resetAt c n).wf = true := by
  have hcfg : (State.resetAt c n).cfg.wf = true := h
  have hqueues : queuesWf (State.resetAt c n) = true := by simp [queuesWf, State.resetAt]
  have hgen : generatorWf (State.resetAt c n) = true := rfl
  have htx := dbWf_empty c.dbCap (elementOk .tx .d16) n
  have hrx := dbWf_empty c.dbCap (elementOk .rx .d16) (n + 2)
  have hring := ringWf_empty c.ringCap c.ringBatch (n + 4)
  have hpdm : pdmWf Pdm.zero = true := by decide
  have hport : portWf c.channelMode PortState.idle = true := rfl
  simp only [State.wf, Bool.and_eq_true]
  exact ⟨⟨⟨⟨⟨⟨⟨⟨⟨hcfg, hqueues⟩, hgen⟩, htx⟩, hrx⟩, hring⟩, hpdm⟩, hport⟩, hport⟩,
    modeWf_resetAt c n⟩

/-- Settles O40: the power-on event is the reset of the state's own build, the reset state meets the
invariant, and its elements are those of R280's table, by kind. -/
theorem resetLeavesTheResetValues : Obligations.ResetLeavesTheResetValues := by
  refine ⟨rfl, fun c n s => ⟨rfl, State.resetAt_wf n, ?_⟩⟩
  rintro r rfl
  have hsizes : ∀ i b, (((State.resetAt c n).db i).buf b).size = 0 ∧
      (((State.resetAt c n).db i).buf b).pos = 0 ∧
      (((State.resetAt c n).db i).buf b).ready = false := fun i b => by
    obtain ⟨m, hbuf⟩ := State.resetAt_buf c n i b
    rw [hbuf]
    exact ⟨rfl, rfl, rfl⟩
  have hbits : ∀ i, ((State.resetAt c n).db i).w = false ∧ ((State.resetAt c n).db i).r = false ∧
      ((State.resetAt c n).db i).isOpen = false := fun i => by
    obtain ⟨m, hdb⟩ := State.resetAt_db c n i
    rw [hdb]
    exact ⟨rfl, rfl, rfl⟩
  have hpayload : ∀ i b, (((State.resetAt c n).db i).buf b).payload.written = [] := fun i b => by
    obtain ⟨m, hbuf⟩ := State.resetAt_buf c n i b
    rw [hbuf]
    rfl
  exact ⟨rfl, rfl, rfl, rfl, rfl, rfl, rfl, rfl, hsizes, hbits, hpayload,
    Ring.empty_array_written (n + 4), rfl, rfl, rfl, rfl, rfl, rfl, rfl, rfl, rfl, rfl, rfl, rfl,
    rfl, Counters.zero_get, State.resetAt_port c n, rfl, rfl⟩

end Sys2Proof.Machine
end

section
/-! ## What every step keeps (R254 to R256)

Every step of the block is the choice of an event and at most two moves of an agent after it. The
moves are listed once, as the relation `AgentStep`; an invariant of a run has one case for each. -/

namespace Sys2Proof.Machine

/-- The choice of the next event, or one move of an agent. -/
inductive AgentStep (s : State) : State → Prop
  | chosen (script : List Event) (draws : Nat) :
      AgentStep s { s with script := script, draws := draws }
  | presented (p : PortId) (x : Txn) (hfree : s.portFree p = true) : AgentStep s (s.present p x)
  | executed {i : Instr} {t : State} (p : PortId) (h : exec i { s with active := p } = .next t) :
      AgentStep s t
  | rejected (p : PortId) : AgentStep s ({ s with active := p }.respond .illegal 0)
  | completed (p : PortId) (v : Word) (hhold : (s.port p).hold = .fwd v) :
      AgentStep s (s.forwardDone p v)
  | ticked : AgentStep s s.tick
  | sent {t : State} (hen : s.txTickEnabled = true) (h : takeTick s = .next t) : AgentStep s t
  | started : AgentStep s s.genStart
  | ended : AgentStep s s.genEnd
  | captured (m : Word) : AgentStep s (s.capture m)
  | powered : AgentStep s s.powerOn

/-- Every move keeps `P`. -/
def KeptByAgents (P : State → Prop) : Prop := ∀ ⦃s t⦄, AgentStep s t → P s → P t

theorem KeptByAgents.of_portStep {P : State → Prop} (hP : KeptByAgents P) {p : PortId} {s t : State}
    (hs : P s) (h : portStep p s = .next t) : P t := by
  obtain ⟨-, hp⟩ | ⟨v, -, hhold, hp⟩ | ⟨x, i, -, -, -, -, hp⟩ | ⟨x, r, -, -, -, -, hp⟩ |
    ⟨-, -, -, hp⟩ := portStep_cases p s <;> rw [hp] at h
  case inl | inr.inr.inr.inr => cases h; exact hs
  case inr.inl => cases h; exact hP (.completed p v hhold) hs
  case inr.inr.inl => exact hP (.executed p h) hs
  case inr.inr.inr.inl => cases h; exact hP (.rejected p) hs

theorem KeptByAgents.of_runEvent {P : State → Prop} (hP : KeptByAgents P) {e : Event} {s t : State}
    (hs : P s) (h : runEvent e s = .next t) : P t := by
  cases e with
  | command p x =>
    simp only [runEvent] at h
    split at h
    case isTrue hfree => exact hP.of_portStep (hP (.presented p x hfree) hs) h
    case isFalse => cases h; exact hs
  | proceed p => exact hP.of_portStep hs h
  | tick => cases h; exact hP .ticked hs
  | txTick =>
    simp only [runEvent] at h
    split at h
    case isTrue hen => exact hP (.sent hen h) hs
    case isFalse => cases h; exact hs
  | genStart => cases h; exact hP .started hs
  | genEnd => cases h; exact hP .ended hs
  | capture m => cases h; exact hP (.captured m) hs
  | powerOn => cases h; exact hP .powered hs

theorem KeptByAgents.of_step {P : State → Prop} (hP : KeptByAgents P) {s t : State} (hs : P s)
    (h : step s = .next t) : P t := by
  obtain ⟨e, rest, -, hstep⟩ | ⟨-, hstep⟩ := takeStep_cases s <;> rw [step, hstep] at h
  · exact hP.of_runEvent (hP (.chosen rest s.draws) hs) h
  · exact hP.of_runEvent (hP (.chosen s.script (s.draws + 1)) hs) h

/-! ### The build -/

theorem exec_cfg {i : Instr} {s t : State} (h : exec i s = .next t) : t.cfg = s.cfg := by
  obtain ho | ⟨_, _, _, -, ho⟩ | ⟨_, _, -, ho⟩ := exec_owned_cases h <;> exact congrArg Owned.cfg ho

theorem AgentStep.cfg {s t : State} (h : AgentStep s t) : t.cfg = s.cfg := by
  cases h with
  | chosen | rejected | presented => simp
  | executed p h => exact exec_cfg (s := { s with active := p }) h
  | completed p v => exact congrArg Owned.cfg (s.forwardDone_owned p v)
  | ticked => exact congrArg Owned.cfg s.tick_owned
  | sent _ h => exact congrArg Owned.cfg (takeTick_keepsOwned s t h)
  | started =>
    obtain ⟨g, ho⟩ := s.genStart_owned
    exact congrArg Owned.cfg ho
  | ended =>
    obtain ⟨g, ho⟩ := s.genEnd_owned
    exact congrArg Owned.cfg ho
  | captured m => exact congrArg Owned.cfg (s.capture_owned m)
  | powered => rfl

end Sys2Proof.Machine
end

section
/-! ## The double-buffer invariants are kept (R28)

What a step can do to one double buffer is said once, as the relation `DbStep`; each of its cases
keeps the invariant. A SET_FORMAT and a power-on, which may change the check of the elements, leave
both buffers empty. -/

namespace Sys2Proof.Machine

/-! ### The invariant of one double buffer, by its parts -/

/-- R28 (6): the buffer after R is ready only where R is, and W is as many buffers after R as are
ready. -/
theorem orderWf_iff {d : DBuf} :
    orderWf d = true ↔
      ((d.buf (!d.r)).ready = true → (d.buf d.r).ready = true) ∧
        d.w = ((d.r ^^ (d.buf d.r).ready) ^^ (d.buf (!d.r)).ready) := by
  unfold orderWf
  cases hr : (d.buf d.r).ready <;> cases hn : (d.buf (!d.r)).ready <;> simp

/-- R28 (5): a buffer that is neither ready nor that of the open unit is empty. -/
theorem idleBufEmpty_iff {d : DBuf} {b : Half} :
    idleBufEmpty d b = true ↔
      ((d.buf b).ready = false → ¬ (d.isOpen = true ∧ b = d.w) → (d.buf b).size = 0) := by
  cases hr : (d.buf b).ready <;> simp [idleBufEmpty, hr]
  tauto

theorem dbWf_iff {cap : Nat} {p : Word → Bool} {d : DBuf} :
    dbWf cap p d = true ↔
      (∀ b, bufWf cap p (d.buf b) = true) ∧ (d.isOpen = true → (d.buf d.w).ready = false) ∧
        (∀ b, idleBufEmpty d b = true) ∧ orderWf d = true := by
  cases h : d.isOpen <;> simp [dbWf, h, Bool.forall_bool, and_assoc]

/-! ### What a step can do to one double buffer -/

/-- What a step other than a SET_FORMAT and a power-on can do to a double buffer with elements that
satisfy `p`. -/
inductive DbStep (cap : Nat) (p : Word → Bool) (d : DBuf) : DBuf → Prop
  | keeps : DbStep cap p d d
  /-- DB_BEGIN (R180). -/
  | opens (hw : (d.buf d.w).ready = false) : DbStep cap p d { d with isOpen := true }
  /-- DB_PUT (R181). -/
  | appends {x : Word} (ho : d.isOpen = true) (hx : p x = true) (hspace : (d.buf d.w).size < cap) :
      DbStep cap p d (d.extended x)
  /-- DB_COMMIT of a unit without elements (R182). -/
  | closes (hempty : (d.buf d.w).size = 0) : DbStep cap p d { d with isOpen := false }
  /-- DB_COMMIT of a unit with elements (R182). -/
  | publishes (ho : d.isOpen = true) (hsize : (d.buf d.w).size ≠ 0) : DbStep cap p d d.published
  /-- An element other than the last is taken (R162, R184). -/
  | advances (hr : (d.buf d.r).ready = true) (hmore : (d.buf d.r).pos + 1 < (d.buf d.r).size) :
      DbStep cap p d (d.setBuf d.r { d.buf d.r with pos := (d.buf d.r).pos + 1 })
  /-- The last element is taken, or the buffer is exhausted (R183). -/
  | releases (hr : (d.buf d.r).ready = true) : DbStep cap p d d.release

theorem DbStep.of_take {cap : Nat} {p : Word → Bool} {d d' : DBuf} {v : Word}
    (hr : (d.buf d.r).ready = true) (hleft : (d.buf d.r).pos < (d.buf d.r).size)
    (h : d.take cap = .ok (v, d')) : DbStep cap p d d' := by
  rw [DBuf.take_eq] at h
  split at h <;> cases h
  split
  case isTrue => exact .releases hr
  case isFalse hmore => exact .advances hr (by omega)

/-! ### Each of its cases keeps the invariant -/

section
variable {cap : Nat} {p : Word → Bool} {d : DBuf}

theorem bufWf_released {b : Buf} (q : Word → Bool) (h : bufWf cap p b = true) :
    bufWf cap q ⟨b.payload, 0, 0, false⟩ = true := by
  obtain ⟨hfits, -⟩ := bufWf_iff.1 h
  exact bufWf_iff.2 ⟨hfits, Memory.holdsBelow_zero _ q, Nat.le_refl 0, Nat.zero_le cap,
    fun _ => rfl, fun hready => nomatch hready⟩

theorem bufWf_extended {b : Buf} {x : Word} (h : bufWf cap p b = true) (hb : b.ready = false)
    (hx : p x = true) (hspace : b.size < cap) :
    bufWf cap p { b with payload := b.payload.insert b.size x, size := b.size + 1 } = true := by
  obtain ⟨hfits, hbelow, hpos, -, hzero, -⟩ := bufWf_iff.1 h
  exact bufWf_iff.2 ⟨Memory.fits_insert hfits hspace, Memory.holdsBelow_insert hbelow hx,
    Nat.le_succ_of_le hpos, hspace, hzero, fun hready => by simp [hb] at hready⟩

theorem bufWf_published {b : Buf} (h : bufWf cap p b = true) (hsize : b.size ≠ 0) :
    bufWf cap p { b with pos := 0, ready := true } = true := by
  obtain ⟨hfits, hbelow, -, hcap, -⟩ := bufWf_iff.1 h
  exact bufWf_iff.2 ⟨hfits, hbelow, Nat.zero_le _, hcap, fun _ => rfl,
    fun _ => Nat.pos_of_ne_zero hsize⟩

theorem bufWf_advanced {b : Buf} (h : bufWf cap p b = true) (hr : b.ready = true)
    (hmore : b.pos + 1 < b.size) : bufWf cap p { b with pos := b.pos + 1 } = true := by
  obtain ⟨hfits, hbelow, -, hcap, -⟩ := bufWf_iff.1 h
  exact bufWf_iff.2 ⟨hfits, hbelow, hmore.le, hcap, fun hready => by simp [hr] at hready,
    fun _ => hmore⟩

theorem dbWf_reset (q : Word → Bool) (h : dbWf cap p d = true) : dbWf cap q d.reset = true := by
  refine dbWf_iff.2
    ⟨fun b => ?_, fun ho => Bool.noConfusion ho, fun b => idleBufEmpty_iff.2 ?_, rfl⟩
  · rw [DBuf.reset_buf]
    exact bufWf_released q (dbWf_buf h b)
  · simp [DBuf.reset_buf]

/-- R28 (3) is the check of DB_BEGIN. -/
theorem dbWf_opened (h : dbWf cap p d = true) (hw : (d.buf d.w).ready = false) :
    dbWf cap p { d with isOpen := true } = true := by
  obtain ⟨hbuf, -, hidle, horder⟩ := dbWf_iff.1 h
  refine dbWf_iff.2 ⟨hbuf, fun _ => hw, fun b => idleBufEmpty_iff.2 fun hr hb => ?_, horder⟩
  exact (idleBufEmpty_iff (d := d)).1 (hidle b) hr fun ⟨_, hbw⟩ => hb ⟨rfl, hbw⟩

/-- The buffer of a unit that closes without elements is empty, as R28 (5) then wants. -/
theorem dbWf_closed (h : dbWf cap p d = true) (hempty : (d.buf d.w).size = 0) :
    dbWf cap p { d with isOpen := false } = true := by
  obtain ⟨hbuf, -, hidle, horder⟩ := dbWf_iff.1 h
  refine dbWf_iff.2
    ⟨hbuf, fun ho => Bool.noConfusion ho, fun b => idleBufEmpty_iff.2 fun hr _ => ?_, horder⟩
  by_cases hb : b = d.w
  · subst hb; exact hempty
  · exact (idleBufEmpty_iff (d := d)).1 (hidle b) hr fun ⟨_, hbw⟩ => hb hbw

theorem orderWf_congr {d' : DBuf} (hw : d'.w = d.w) (hr : d'.r = d.r)
    (hready : ∀ b, (d'.buf b).ready = (d.buf b).ready) : orderWf d' = orderWf d := by
  simp only [orderWf, hw, hr, hready]

/-- A buffer may be replaced by one that is as ready, where R28 (5) does not want it empty. -/
theorem dbWf_setBuf {b : Half} {x : Buf} (h : dbWf cap p d = true) (hx : bufWf cap p x = true)
    (hready : x.ready = (d.buf b).ready) (hused : x.ready = true ∨ d.isOpen = true ∧ b = d.w) :
    dbWf cap p (d.setBuf b x) = true := by
  obtain ⟨hbuf, hopen, hidle, horder⟩ := dbWf_iff.1 h
  have hkept (c : Half) : ((d.setBuf b x).buf c).ready = (d.buf c).ready := by
    by_cases hc : c = b <;> simp [hc, hready]
  refine dbWf_iff.2 ⟨fun c => ?_, fun ho => ?_, fun c => idleBufEmpty_iff.2 fun hr hc => ?_,
    (orderWf_congr (by simp) (by simp) hkept).trans horder⟩
  · by_cases hc : c = b
    · simpa [hc] using hx
    · simpa [hc] using hbuf c
  · rw [hkept, DBuf.setBuf_w]
    exact hopen (by simpa using ho)
  · simp only [DBuf.setBuf_isOpen, DBuf.setBuf_w] at hc
    have hcb : c ≠ b := by
      rintro rfl
      obtain hx | hw := hused
      · simp [hx] at hr
      · exact hc hw
    rw [hkept] at hr
    simpa [hcb] using idleBufEmpty_iff.1 (hidle c) hr hc

theorem dbWf_extended {x : Word} (h : dbWf cap p d = true) (ho : d.isOpen = true)
    (hx : p x = true) (hspace : (d.buf d.w).size < cap) : dbWf cap p (d.extended x) = true :=
  dbWf_setBuf h (bufWf_extended (dbWf_buf h d.w) (dbWf_open h ho) hx hspace) rfl (.inr ⟨ho, rfl⟩)

theorem dbWf_advanced (h : dbWf cap p d = true) (hr : (d.buf d.r).ready = true)
    (hmore : (d.buf d.r).pos + 1 < (d.buf d.r).size) :
    dbWf cap p (d.setBuf d.r { d.buf d.r with pos := (d.buf d.r).pos + 1 }) = true :=
  dbWf_setBuf h (bufWf_advanced (dbWf_buf h d.r) hr hmore) rfl (.inl hr)

/-- The buffer of W becomes ready and W goes on by one, so R28 (6) goes on from the open unit. -/
theorem dbWf_published (h : dbWf cap p d = true) (ho : d.isOpen = true)
    (hsize : (d.buf d.w).size ≠ 0) : dbWf cap p d.published = true := by
  refine dbWf_iff.2 ⟨fun b => ?_, fun hopen => Bool.noConfusion hopen,
    fun b => idleBufEmpty_iff.2 fun hr _ => ?_, orderWf_iff.2 ?_⟩
  · rw [DBuf.published_buf]
    split
    · exact bufWf_published (dbWf_buf h d.w) hsize
    · exact dbWf_buf h b
  · obtain ⟨-, -, hidle, -⟩ := dbWf_iff.1 h
    rw [DBuf.published_buf] at hr ⊢
    split at hr
    case isTrue => cases hr
    case isFalse hb =>
      rw [if_neg hb]
      exact idleBufEmpty_iff.1 (hidle b) hr fun ⟨_, hbw⟩ => hb hbw
  · have hw : d.published.w = !d.w := rfl
    obtain ⟨hn, ⟨hwr, hr⟩ | ⟨hwr, hr⟩⟩ := dbWf_order_of_open h ho <;>
      simp [DBuf.published_buf, DBuf.published_r, hw, hwr, hr, hn]

/-- The released buffer is empty, and R goes on by one while one buffer less is ready (R183). -/
theorem dbWf_release (h : dbWf cap p d = true) (hr : (d.buf d.r).ready = true) :
    dbWf cap p d.release = true := by
  obtain ⟨hbuf, hopen, hidle, horder⟩ := dbWf_iff.1 h
  obtain ⟨-, hw⟩ := orderWf_iff.1 horder
  refine dbWf_iff.2 ⟨fun b => ?_, fun ho => ?_, fun b => idleBufEmpty_iff.2 fun hb hnot => ?_,
    orderWf_iff.2 ?_⟩
  · rw [DBuf.release_buf]
    split
    · exact bufWf_released p (hbuf d.r)
    · exact hbuf b
  · rw [DBuf.release_isOpen] at ho
    rw [DBuf.release_w, DBuf.release_buf]
    split
    · rfl
    · exact hopen ho
  · rw [DBuf.release_buf] at hb ⊢
    rw [DBuf.release_isOpen, DBuf.release_w] at hnot
    split at hb
    case isTrue heq => rw [if_pos heq]
    case isFalse hne => rw [if_neg hne]; exact idleBufEmpty_iff.1 (hidle b) hb hnot
  · simp [DBuf.release_buf, hw, hr]

theorem DbStep.keeps_dbWf {d' : DBuf} (hstep : DbStep cap p d d') (h : dbWf cap p d = true) :
    dbWf cap p d' = true := by
  cases hstep with
  | keeps => exact h
  | opens hw => exact dbWf_opened h hw
  | appends ho hx hspace => exact dbWf_extended h ho hx hspace
  | closes hempty => exact dbWf_closed h hempty
  | publishes ho hsize => exact dbWf_published h ho hsize
  | advances hr hmore => exact dbWf_advanced h hr hmore
  | releases hr => exact dbWf_release h hr

end

/-! ### What each command and each agent does to the double buffers -/

/-- Replacing one double buffer leaves the other alone. -/
theorem State.setDb_dbStep {cap : Nat} {p : Inst → Word → Bool} {s : State} {i : Inst} {d : DBuf}
    (h : DbStep cap (p i) (s.db i) d) (j : Inst) :
    DbStep cap (p j) (s.db j) ((s.setDb i d).db j) := by
  rw [State.setDb_db]
  split
  case isTrue hj => exact hj ▸ h
  case isFalse => exact .keeps

/-- The state `t` is reached from `s` with such a step of each double buffer. -/
def StepsDb (s t : State) : Prop :=
  ∀ j, DbStep s.cfg.dbCap (elementOk j s.fmtDepth) (s.db j) (t.db j)

theorem StepsDb.of_db_eq {s t : State} (h : ∀ j, t.db j = s.db j) : StepsDb s t := fun j => by
  rw [h j]
  exact .keeps

/-- An answer after a step of one double buffer. -/
theorem StepsDb.of_setDb {s t : State} {i : Inst} {d : DBuf} {st : Status} {v : Word}
    (h : DbStep s.cfg.dbCap (elementOk i s.fmtDepth) (s.db i) d)
    (ht : (s.setDb i d).respond st v = t) : StepsDb s t := fun j => by
  rw [← ht, State.respond_db]
  exact State.setDb_dbStep (p := fun j => elementOk j s.fmtDepth) h j

theorem execDbBegin_stepsDb {i : Inst} {s t : State} (h : execDbBegin i s = .next t) :
    StepsDb s t := by
  simp only [execDbBegin] at h
  split at h
  · cases h; exact .of_db_eq fun _ => by simp
  split at h
  · cases h; exact .of_db_eq fun _ => by simp
  case isFalse hw =>
    cases h
    exact .of_setDb (.opens (by simpa using hw)) rfl

theorem execDbPut_stepsDb {i : Inst} {x : Word} {s t : State} (h : execDbPut i x s = .next t) :
    StepsDb s t := by
  simp only [execDbPut] at h
  split at h
  · cases h; exact .of_db_eq fun _ => by simp
  case isFalse ho =>
  split at h
  · cases h; exact .of_db_eq fun _ => by simp
  case isFalse hx =>
  split at h
  · cases h; exact .of_db_eq fun _ => by simp
  obtain ⟨m, hm, ht⟩ := orFault_eq_next.1 h
  obtain ⟨hspace, rfl⟩ := memWrite_eq_ok.1 hm
  cases ht
  exact .of_setDb (.appends (by simpa using ho) (by simpa using hx) hspace) rfl

theorem execDbCommit_stepsDb {i : Inst} {s t : State} (h : execDbCommit i s = .next t) :
    StepsDb s t := by
  simp only [execDbCommit] at h
  split at h
  · cases h; exact .of_db_eq fun _ => by simp
  case isFalse ho =>
  split at h <;> cases h
  case isTrue hempty => exact .of_setDb (.closes hempty) rfl
  case isFalse hsize => exact .of_setDb (.publishes (by simpa using ho) hsize) rfl

theorem execDbGet_stepsDb {i : Inst} {s t : State} (h : execDbGet i s = .next t) :
    StepsDb s t := by
  cases i with
  | tx => cases h; exact .of_db_eq fun _ => by simp
  | rx =>
    simp only [execDbGet] at h
    split at h
    · cases h; exact .of_db_eq fun _ => by simp
    case isFalse hr =>
    have hready : (s.dbRx.buf s.dbRx.r).ready = true := by simpa using hr
    split at h
    · cases h; exact .of_setDb (i := .rx) (.releases hready) rfl
    case isFalse hleft =>
      obtain ⟨⟨v, d⟩, htake, ht⟩ := orFault_eq_next.1 h
      cases ht
      exact .of_setDb (i := .rx) (.of_take hready (Nat.lt_of_not_ge hleft) htake) rfl

/-- Every command but SET_FORMAT. -/
theorem exec_stepsDb {i : Instr} {s t : State} (hi : ∀ a b, i ≠ .setFormat a b)
    (h : exec i s = .next t) : StepsDb s t := by
  cases hw : writesDb i with
  | false => exact .of_db_eq (exec_keepsDb hw s t h)
  | true =>
    cases i with
    | setFormat a b => exact absurd rfl (hi a b)
    | dbBegin => exact execDbBegin_stepsDb h
    | dbPut => exact execDbPut_stepsDb h
    | dbCommit => exact execDbCommit_stepsDb h
    | dbGet => exact execDbGet_stepsDb h
    | _ => cases hw

theorem takeTick_stepsDb {s t : State} (h : takeTick s = .next t) : StepsDb s t := by
  obtain ⟨c, d, hr, hleft, htake, hs⟩ | ⟨e, -, -, -, hs⟩ | ⟨hr, -, hs⟩ | ⟨-, hs⟩ :=
    takeTick_cases s <;> rw [hs] at h <;> cases h
  · exact State.setDb_dbStep (i := .tx) (.of_take hr hleft htake)
  · exact State.setDb_dbStep (i := .tx) (.releases hr)
  · exact .of_db_eq fun j => by cases j <;> rfl

/-! ### The invariant along a run -/

/-- The invariant of R28 for the double buffer `j` of `s`. -/
def State.DbInvariant (s : State) (j : Inst) : Prop :=
  dbWf s.cfg.dbCap (elementOk j s.fmtDepth) (s.db j) = true

/-- It rests on the build, the format and the double buffer. -/
theorem State.DbInvariant.congr {s t : State} {j : Inst} (hs : s.DbInvariant j)
    (hcfg : t.cfg = s.cfg) (hformat : t.owned.format = s.owned.format) (hdb : t.db j = s.db j) :
    t.DbInvariant j := by
  obtain ⟨hdepth, -⟩ := State.format_eq_iff.1 hformat
  rwa [State.DbInvariant, hcfg, hdepth, hdb]

theorem StepsDb.keeps_dbInvariant {s t : State} {j : Inst} (h : StepsDb s t)
    (hcfg : t.cfg = s.cfg) (hformat : t.owned.format = s.owned.format)
    (hs : s.DbInvariant j) : t.DbInvariant j := by
  obtain ⟨hdepth, -⟩ := State.format_eq_iff.1 hformat
  rw [State.DbInvariant, hcfg, hdepth]
  exact (h j).keeps_dbWf hs

theorem State.resetAt_dbInvariant (c : Config) (n : Nat) (j : Inst) :
    (State.resetAt c n).DbInvariant j := by
  obtain ⟨m, hdb⟩ := State.resetAt_db c n j
  rw [State.DbInvariant, hdb]
  exact dbWf_empty _ _ m

@[simp] theorem State.withChoice_db (s : State) (script : List Event) (draws : Nat) (j : Inst) :
    { s with script := script, draws := draws }.db j = s.db j := by cases j <;> rfl

/-- SET_FORMAT empties both buffers when it changes the check of their elements (R188, R232). -/
theorem execSetFormat_keeps_dbInvariant {a b : Word} {s t : State} {j : Inst}
    (h : execSetFormat a b s = .next t) (hs : s.DbInvariant j) : t.DbInvariant j := by
  unfold execSetFormat at h
  split at h <;> cases h
  · cases j <;> simpa [State.DbInvariant, State.applyFormat, State.db] using dbWf_reset _ hs
  · exact hs.congr (by simp) (by simp) (by simp)

theorem exec_keeps_dbInvariant {i : Instr} {s t : State} {j : Inst} (h : exec i s = .next t)
    (hs : s.DbInvariant j) : t.DbInvariant j := by
  by_cases hi : ∃ a b, i = .setFormat a b
  · obtain ⟨a, b, rfl⟩ := hi
    exact execSetFormat_keeps_dbInvariant h hs
  · have hne : ∀ a b, i ≠ .setFormat a b := fun a b hab => hi ⟨a, b, hab⟩
    obtain ⟨hformat, -⟩ := exec_writes_only_own h
    exact (exec_stepsDb hne h).keeps_dbInvariant (exec_cfg h) (hformat hne) hs

theorem dbInvariant_keptByAgents (j : Inst) : KeptByAgents (·.DbInvariant j) := by
  intro s t hstep hs
  have hcfg := hstep.cfg
  cases hstep with
  | chosen script draws => exact hs.congr hcfg rfl (s.withChoice_db script draws j)
  | presented | rejected => exact hs.congr hcfg (by simp) (by simp)
  | executed p h => exact exec_keeps_dbInvariant h (hs.congr rfl rfl (s.withActive_db p j))
  | completed p v => exact hs.congr hcfg (by rw [s.forwardDone_owned]) (s.forwardDone_db p v j)
  | ticked => exact hs.congr hcfg (by rw [s.tick_owned]) (s.tick_db j)
  | sent _ h =>
    exact (takeTick_stepsDb h).keeps_dbInvariant hcfg (by rw [takeTick_keepsOwned s t h]) hs
  | started =>
    obtain ⟨g, ho⟩ := s.genStart_owned
    exact hs.congr hcfg (by rw [ho]) (s.genStart_db j)
  | ended =>
    obtain ⟨g, ho⟩ := s.genEnd_owned
    exact hs.congr hcfg (by rw [ho]) (s.genEnd_db j)
  | captured m => exact hs.congr hcfg (by rw [s.capture_owned]) (s.capture_db m j)
  | powered =>
    refine (State.resetAt_dbInvariant s.cfg s.seeds j).congr rfl rfl ?_
    exact (State.resetAt s.cfg s.seeds).withChoice_db s.script s.draws j

/-! ### The six parts of R28 -/

/-- R28 (4): a buffer is owned by one side only, since the producer's is not ready. -/
theorem not_producerOwns_and_consumerOwns (d : DBuf) (b : Half) :
    ¬ (producerOwns d b ∧ consumerOwns d b) := by
  rintro ⟨⟨-, hfalse⟩, ⟨-, htrue⟩⟩
  simp [hfalse] at htrue

/-- R28 (6) in the arithmetic of the rule: W is R plus the number of ready buffers. -/
theorem orderWf_count {d : DBuf} {k : Nat} (h : orderWf d = true)
    (hk : k = (d.buf false).ready.toNat + (d.buf true).ready.toNat) :
    d.w.toNat = (d.r.toNat + k) % 2 ∧ (1 ≤ k → (d.buf d.r).ready = true) ∧
      (k = 2 → (d.buf (!d.r)).ready = true) := by
  obtain ⟨hfirst, hw⟩ := orderWf_iff.1 h
  have hsum : k = (d.buf d.r).ready.toNat + (d.buf (!d.r)).ready.toNat := by
    cases hr : d.r
    · exact hk
    · exact hk.trans (Nat.add_comm _ _)
  subst hsum
  rw [hw]
  cases hr : (d.buf d.r).ready <;> cases hn : (d.buf (!d.r)).ready
  case false.true => simp [hr] at hfirst; simp [hfirst] at hn
  all_goals cases d.r <;> simp

/-- Settles O41: each agent keeps the invariant (`dbInvariant_keptByAgents`), because each case of
`DbStep` does. -/
theorem doubleBufferInvariantsAreKept : Obligations.DoubleBufferInvariantsAreKept := by
  refine ⟨State.resetAt_dbInvariant, fun s t i hs h => (dbInvariant_keptByAgents i).of_step hs h,
    fun cap p d h => ?_⟩
  obtain ⟨hbuf, hopen, hidle, horder⟩ := dbWf_iff.1 h
  refine ⟨fun b => ?_, fun b hr => ?_, hopen, not_producerOwns_and_consumerOwns d,
    fun b => idleBufEmpty_iff.1 (hidle b), fun k => orderWf_count horder⟩
  · obtain ⟨-, -, hpos, hsize, -⟩ := bufWf_iff.1 (hbuf b)
    exact ⟨hpos, hsize⟩
  · obtain ⟨-, -, -, -, hzero, -⟩ := bufWf_iff.1 (hbuf b)
    exact hzero hr

end Sys2Proof.Machine
end

section
/-! ## The ring's invariant is kept (R30, R204 to R209)

The invariant is taken apart into the semaphores and the arrays, the writer's side and the reader's
side, so that a step of one side leaves the other's part alone. What a step can do to the ring is
said once, as the relation `RingStep`. -/

namespace Sys2Proof.Machine

/-! ### The invariant of the ring, by its parts -/

/-- The semaphores, the order and the arrays of R30, without what the writer and the reader hold. -/
structure Ring.CoreWf (cap : Nat) (r : Ring) : Prop where
  sum : r.semEmpty + r.inFlight + r.wheld.toNat = 2
  order : r.wi = if r.inFlight % 2 = 1 then !r.ri else r.ri
  arrays : ∀ k, r.arrayWf cap k = true

/-- Every word of the writer's batch is written. -/
def Ring.BatchWritten (r : Ring) : Prop :=
  (r.array r.wi).holdsBelow r.wcount (fun _ => true) = true

theorem ringWf_iff_core {cap batch : Nat} {r : Ring} :
    ringWf cap batch r = true ↔
      r.CoreWf cap ∧ r.writerWf batch = true ∧ r.readerWf = true := by
  rw [ringWf_iff]
  constructor
  · rintro ⟨hsum, horder, harr, hwrite, hread⟩
    exact ⟨⟨by rw [Ring.inFlight]; omega, horder, harr⟩, hwrite, hread⟩
  · rintro ⟨⟨hsum, horder, harr⟩, hwrite, hread⟩
    rw [Ring.inFlight] at hsum
    exact ⟨by omega, horder, harr, hwrite, hread⟩

theorem Ring.writerWf_iff {batch : Nat} {r : Ring} :
    r.writerWf batch = true ↔
      (r.wheld = true → (1 ≤ r.wcount ∧ r.wcount < batch) ∧ r.BatchWritten) ∧
        (r.wheld = false → r.wcount = 0) := by
  cases h : r.wheld <;> simp [Ring.writerWf, Ring.BatchWritten, h]

theorem Ring.arrayWf_iff {cap : Nat} {r : Ring} {k : Half} :
    r.arrayWf cap k = true ↔
      (r.array k).fits cap = true ∧
        (r.published k = true → (1 ≤ r.rsize k ∧ r.rsize k ≤ cap) ∧
          (r.array k).holdsBelow (r.rsize k) (fun _ => true) = true) ∧
        (r.published k = false → r.rsize k = 0) := by
  cases h : r.published k <;> simp [Ring.arrayWf, h]

theorem Ring.published_congr {r r' : Ring} (hin : r'.inFlight = r.inFlight) (hri : r'.ri = r.ri)
    (k : Half) : r'.published k = r.published k := by
  simp only [Ring.published, hin, hri]

theorem Ring.published_iff {r : Ring} {k : Half} :
    r.published k = true ↔ 2 ≤ r.inFlight ∨ r.inFlight = 1 ∧ k = r.ri := by
  simp [Ring.published]

/-- What the core rests on; the cursors are not among it. -/
theorem Ring.CoreWf.congr {cap : Nat} {r r' : Ring} (h : r.CoreWf cap)
    (hsum : r'.semEmpty + r'.inFlight + r'.wheld.toNat = r.semEmpty + r.inFlight + r.wheld.toNat)
    (hin : r'.inFlight = r.inFlight) (hwi : r'.wi = r.wi) (hri : r'.ri = r.ri)
    (harray : ∀ k, r'.array k = r.array k) (hrsize : ∀ k, r'.rsize k = r.rsize k) :
    r'.CoreWf cap where
  sum := hsum.trans h.sum
  order := by simpa only [hwi, hin, hri] using h.order
  arrays k := by
    simpa only [Ring.arrayWf, harray, hrsize, Ring.published_congr hin hri] using h.arrays k

/-! ### The writer's side (R204 to R207) -/

theorem Memory.holdsBelow_insert_any {m : Memory} {n : Nat} (j : Nat) (v : Word)
    (h : m.holdsBelow n (fun _ => true) = true) :
    (m.insert j v).holdsBelow n (fun _ => true) = true := by
  rw [Memory.holdsBelow_iff] at h ⊢
  intro k hk
  rw [Memory.lookup_insert]
  split
  · exact ⟨v, rfl, rfl⟩
  · exact h k hk

@[simp] theorem Ring.writing_inFlight (r : Ring) : r.writing.inFlight = r.inFlight := by
  rw [Ring.writing_eq]; rfl

@[simp] theorem Ring.writing_wheld (r : Ring) : r.writing.wheld = true := by
  rw [Ring.writing_eq]

@[simp] theorem Ring.extended_semEmpty (v : Word) (r : Ring) :
    (r.extended v).semEmpty = r.semEmpty := Ring.setArray_semEmpty ..

@[simp] theorem Ring.extended_rheld (v : Word) (r : Ring) : (r.extended v).rheld = r.rheld :=
  Ring.setArray_rheld ..

/-- The reader's side rests on what it holds and on the size of its own array. -/
theorem Ring.readerWf_congr {r r' : Ring} (hheld : r'.rheld = r.rheld) (hpos : r'.rpos = r.rpos)
    (hsize : r'.rsize r'.ri = r.rsize r.ri) : r'.readerWf = r.readerWf := by
  simp only [Ring.readerWf, hheld, hpos, hsize]

theorem Ring.writing_readerWf (r : Ring) : r.writing.readerWf = r.readerWf := by
  rw [Ring.writing_eq]
  exact Ring.readerWf_congr rfl rfl rfl

theorem Ring.extended_readerWf (v : Word) (r : Ring) : (r.extended v).readerWf = r.readerWf :=
  Ring.readerWf_congr (by simp) (by simp) (by simp)

/-- Acquiring an array moves one permit of SEM_EMPTY to WHELD. -/
theorem Ring.CoreWf.writing {cap : Nat} {r : Ring} (h : r.CoreWf cap)
    (hholds : r.wheld = true ∨ r.semEmpty ≠ 0) : r.writing.CoreWf cap := by
  refine h.congr ?_ r.writing_inFlight ?_ ?_ ?_ ?_
  · rw [r.writing_inFlight, Ring.writing_eq]
    cases hw : r.wheld with
    | true => rfl
    | false =>
      have hsem : r.semEmpty ≠ 0 := by simpa [hw] using hholds
      simp only [Bool.false_eq_true, if_false, Bool.toNat_true, Bool.toNat_false]
      omega
  case refine_2 | refine_3 => rw [Ring.writing_eq]
  all_goals exact fun k => by rw [Ring.writing_eq]; rfl

theorem Ring.writing_batchWritten {batch : Nat} {r : Ring} (h : r.writerWf batch = true)
    (hone : 1 ≤ batch) : r.writing.wcount < batch ∧ r.writing.BatchWritten := by
  obtain ⟨hheld, -⟩ := Ring.writerWf_iff.1 h
  cases hw : r.wheld with
  | true =>
    obtain ⟨⟨-, hlt⟩, hbatch⟩ := hheld hw
    have hr : r.writing = r := if_pos hw
    rw [hr]
    exact ⟨hlt, hbatch⟩
  | false =>
    have hzero : r.writing.wcount = 0 := by rw [Ring.writing_eq]; simp [hw]
    exact ⟨by omega, by rw [Ring.BatchWritten, hzero]; exact Memory.holdsBelow_zero _ _⟩

/-- A word written in the writer's array leaves every array in its form. -/
theorem Ring.CoreWf.extended {cap : Nat} {r : Ring} (h : r.CoreWf cap) (v : Word)
    (hcap : r.wcount < cap) : (r.extended v).CoreWf cap where
  sum := by simpa using h.sum
  order := by simpa using h.order
  arrays k := by
    obtain ⟨hfits, hpub, hfree⟩ := Ring.arrayWf_iff.1 (h.arrays k)
    have hkept := Ring.published_congr (r.extended_inFlight v) (r.extended_ri v) k
    rw [Ring.arrayWf_iff, hkept, Ring.extended_array, Ring.extended_rsize]
    split
    case isTrue hk =>
      subst hk
      exact ⟨Memory.fits_insert hfits hcap,
        fun hp => ⟨(hpub hp).1, Memory.holdsBelow_insert_any _ v (hpub hp).2⟩, hfree⟩
    case isFalse => exact ⟨hfits, hpub, hfree⟩

theorem Ring.extended_batchWritten {r : Ring} (v : Word) (h : r.BatchWritten) :
    (r.extended v).BatchWritten := by
  simpa [Ring.BatchWritten] using Memory.holdsBelow_insert (v := v) h rfl

/-- While the writer holds an array at most one is in flight, and it is not the writer's. -/
theorem Ring.CoreWf.inFlight_of_held {cap : Nat} {r : Ring} (h : r.CoreWf cap)
    (hheld : r.wheld = true) :
    r.inFlight = 0 ∧ r.wi = r.ri ∨ r.inFlight = 1 ∧ r.wi = !r.ri := by
  have hsum := h.sum
  have horder := h.order
  rw [hheld, Bool.toNat_true] at hsum
  obtain hin | hin : r.inFlight = 0 ∨ r.inFlight = 1 := by omega
  · exact .inl ⟨hin, by simpa [hin] using horder⟩
  · exact .inr ⟨hin, by simpa [hin] using horder⟩

/-- After a publication the writer's array and those in flight before are in flight. -/
theorem Ring.CoreWf.publish_published {cap : Nat} {r : Ring} (h : r.CoreWf cap)
    (hheld : r.wheld = true) (k : Half) :
    r.publish.published k = (k == r.wi || r.published k) := by
  rw [Bool.eq_iff_iff, Bool.or_eq_true, Ring.published_iff, Ring.published_iff, r.publish_inFlight,
    r.publish_ri, beq_iff_eq]
  obtain ⟨hin, hwi⟩ | ⟨hin, hwi⟩ := h.inFlight_of_held hheld <;> rw [hin, hwi]
  · simp
  · cases k <;> cases r.ri <;> simp

theorem Ring.CoreWf.publish {cap : Nat} {r : Ring} (h : r.CoreWf cap) (hheld : r.wheld = true)
    (hcount : 1 ≤ r.wcount ∧ r.wcount ≤ cap) (hbatch : r.BatchWritten) :
    r.publish.CoreWf cap where
  sum := by
    have hsum := h.sum
    have hempty : r.publish.semEmpty = r.semEmpty := Ring.setRsize_semEmpty ..
    have hfree : r.publish.wheld = false := rfl
    rw [r.publish_inFlight, hempty, hfree]
    rw [hheld] at hsum
    simp only [Bool.toNat_true, Bool.toNat_false] at hsum ⊢
    omega
  order := by
    have hwi' : r.publish.wi = !r.wi := rfl
    rw [r.publish_inFlight, hwi', r.publish_ri]
    obtain ⟨hin, hwi⟩ | ⟨hin, hwi⟩ := h.inFlight_of_held hheld <;> simp [hin, hwi]
  arrays k := by
    obtain ⟨hfits, hpub, hfree⟩ := Ring.arrayWf_iff.1 (h.arrays k)
    rw [Ring.arrayWf_iff, h.publish_published hheld, r.publish_array, r.publish_rsize]
    by_cases hk : k = r.wi
    · subst hk
      exact ⟨hfits, fun _ => by rw [if_pos rfl]; exact ⟨hcount, hbatch⟩, fun hp => by simp at hp⟩
    · simpa [hk] using And.intro hfits (And.intro hpub hfree)

/-- The reader's side of a publication: the array it holds is not the one published. -/
theorem Ring.readerWf_publish {cap : Nat} {r : Ring} (h : r.CoreWf cap) (hheld : r.wheld = true)
    (hread : r.readerWf = true) : r.publish.readerWf = true := by
  obtain ⟨hbusy, hfree⟩ := Ring.readerWf_iff.1 hread
  have hr : r.publish.rheld = r.rheld := Ring.setRsize_rheld ..
  rw [Ring.readerWf_iff, hr, r.publish_rpos, r.publish_ri, r.publish_rsize]
  refine ⟨fun hrheld => ?_, hfree⟩
  obtain ⟨hin, -⟩ | ⟨-, hwi⟩ := h.inFlight_of_held hheld
  · simp [(Ring.inFlight_eq_zero_iff.1 hin).1] at hrheld
  · rw [hwi, if_neg (by simp)]
    exact hbusy hrheld

theorem ringWf_publish {cap batch : Nat} {r : Ring} (hcore : r.CoreWf cap)
    (hread : r.readerWf = true) (hheld : r.wheld = true)
    (hcount : 1 ≤ r.wcount ∧ r.wcount ≤ cap) (hbatch : r.BatchWritten) :
    ringWf cap batch r.publish = true :=
  ringWf_iff_core.2
    ⟨hcore.publish hheld hcount hbatch, rfl, Ring.readerWf_publish hcore hheld hread⟩

/-- An append writes one word, and a full batch is published (R204). -/
theorem ringWf_appended {cap batch : Nat} {r : Ring} (h : ringWf cap batch r = true)
    (hone : 1 ≤ batch) (hcap : batch ≤ cap) (hholds : r.wheld = true ∨ r.semEmpty ≠ 0) (v : Word) :
    ringWf cap batch (r.writing.appended batch v) = true := by
  obtain ⟨hcore, hwrite, hread⟩ := ringWf_iff_core.1 h
  obtain ⟨hlt, hbatch⟩ := Ring.writing_batchWritten hwrite hone
  have hcore' := (hcore.writing hholds).extended v (hlt.trans_le hcap)
  have hbatch' := Ring.extended_batchWritten v hbatch
  have hheld' : (r.writing.extended v).wheld = true := by simp
  have hread' : (r.writing.extended v).readerWf = true := by
    rwa [Ring.extended_readerWf, Ring.writing_readerWf]
  by_cases hlast : r.writing.wcount + 1 = batch
  · rw [Ring.appended_of_last v hlast]
    exact ringWf_publish hcore' hread' hheld' ⟨by simp, hlast.trans_le hcap⟩ hbatch'
  · rw [Ring.appended_of_more v hlast]
    refine ringWf_iff_core.2 ⟨hcore', Ring.writerWf_iff.2 ⟨fun _ => ⟨⟨by simp, ?_⟩, hbatch'⟩,
      fun hfree => by simp at hfree⟩, hread'⟩
    rw [Ring.extended_wcount]
    omega

/-- A flush publishes the batch that is not yet full (R207). -/
theorem ringWf_flushed {cap batch : Nat} {r : Ring} (h : ringWf cap batch r = true)
    (hcap : batch ≤ cap) (hheld : r.wheld = true) : ringWf cap batch r.publish = true := by
  obtain ⟨hcore, hwrite, hread⟩ := ringWf_iff_core.1 h
  obtain ⟨⟨hone, hlt⟩, hbatch⟩ := (Ring.writerWf_iff.1 hwrite).1 hheld
  exact ringWf_publish hcore hread hheld ⟨hone, by omega⟩ hbatch

/-! ### The reader's side (R208, R209) -/

theorem Ring.CoreWf.release {cap : Nat} {r : Ring} (h : r.CoreWf cap) (hheld : r.rheld = true) :
    r.release.CoreWf cap := by
  have hin' := Ring.release_inFlight hheld
  have hsum := h.sum
  have hin : r.inFlight = 1 ∨ r.inFlight = 2 := by omega
  refine ⟨?_, ?_, fun k => ?_⟩
  · have hempty : r.release.semEmpty = r.semEmpty + 1 := rfl
    rw [r.release_wheld, hempty]
    omega
  · have horder := h.order
    rw [r.release_wi, r.release_ri]
    obtain hin | hin := hin
    · have hzero : r.release.inFlight = 0 := by omega
      simpa [hzero, hin] using horder
    · have hone : r.release.inFlight = 1 := by omega
      simpa [hone, hin] using horder
  · obtain ⟨hfits, hpub, hfree⟩ := Ring.arrayWf_iff.1 (h.arrays k)
    have hleft : r.release.published k = (!(k == r.ri) && r.published k) := by
      rw [Bool.eq_iff_iff, Bool.and_eq_true, Ring.published_iff, Ring.published_iff, r.release_ri]
      obtain hin | hin := hin
      · have hzero : r.release.inFlight = 0 := by omega
        simp [hzero, hin]
      · have hone : r.release.inFlight = 1 := by omega
        cases k <;> cases r.ri <;> simp [hone, hin]
    rw [Ring.arrayWf_iff, hleft, r.release_array, r.release_rsize]
    by_cases hk : k = r.ri
    · simp [hk, hk ▸ hfits]
    · simpa [hk] using And.intro hfits (And.intro hpub hfree)

/-- The writer's side rests on what it holds and on its own array. -/
theorem Ring.writerWf_congr {batch : Nat} {r r' : Ring} (hheld : r'.wheld = r.wheld)
    (hcount : r'.wcount = r.wcount) (harray : r'.array r'.wi = r.array r.wi) :
    r'.writerWf batch = r.writerWf batch := by
  simp only [Ring.writerWf, hheld, hcount, harray]

theorem Ring.CoreWf.holding {cap : Nat} {r : Ring} (h : r.CoreWf cap) (hin : r.inFlight ≠ 0) :
    { r with semFull := r.inFlight - 1, rheld := true }.CoreWf cap := by
  have hkept := Ring.holding_inFlight hin
  exact h.congr (by rw [hkept]) hkept rfl rfl (fun _ => rfl) (fun _ => rfl)

/-- A reader that holds an array with a word left takes it, and releases the array with the last. -/
theorem ringWf_taken {cap batch : Nat} {r r' : Ring} {v : Word} (hcore : r.CoreWf cap)
    (hwrite : r.writerWf batch = true) (hheld : r.rheld = true) (hpos : r.rpos < r.rsize r.ri)
    (hsize : r.rsize r.ri ≤ cap) (htake : r.takeHeld cap = .ok (v, r')) :
    ringWf cap batch r' = true := by
  by_cases hlast : r.rpos + 1 = r.rsize r.ri
  · rw [Ring.takeHeld_of_last (hpos.trans_le hsize) hlast] at htake
    cases htake
    refine ringWf_iff_core.2 ⟨hcore.release hheld, ?_, rfl⟩
    rwa [Ring.writerWf_congr r.release_wheld r.release_wcount (by simp)]
  · rw [Ring.takeHeld_of_more (hpos.trans_le hsize) hlast] at htake
    cases htake
    have hread : { r with rpos := r.rpos + 1 }.readerWf = true :=
      Ring.readerWf_iff.2 ⟨fun _ => ⟨Nat.le_add_left 1 _, lt_of_le_of_ne hpos hlast⟩,
        fun hfree => by simp [hheld] at hfree⟩
    exact ringWf_iff_core.2
      ⟨hcore.congr rfl rfl rfl rfl (fun _ => rfl) (fun _ => rfl), hwrite, hread⟩

/-- A pop takes a word of the oldest array in flight (R208). -/
theorem ringWf_popped {cap batch : Nat} {r r' : Ring} {v : Word} (h : ringWf cap batch r = true)
    (hholds : r.rheld = true ∨ r.semFull ≠ 0) (htake : r.reading.takeHeld cap = .ok (v, r')) :
    ringWf cap batch r' = true := by
  obtain ⟨hcore, hwrite, -⟩ := ringWf_iff_core.1 h
  have hin : r.inFlight ≠ 0 := by
    rw [Ne, Ring.inFlight_eq_zero_iff]
    rintro ⟨hheld, hfull⟩
    simp [hheld, hfull] at hholds
  obtain ⟨hpos, hsize⟩ := Ring.rpos_lt_of_inFlight h hin
  rw [Ring.reading_of_ringWf h] at htake
  exact ringWf_taken (hcore.holding hin) hwrite rfl hpos hsize htake

/-! ### What a step can do to the ring -/

/-- What a step other than a power-on can do to the ring. -/
inductive RingStep (cap batch : Nat) (r : Ring) : Ring → Prop
  | keeps : RingStep cap batch r r
  /-- RING_APPEND, or the RX_POLL that forwards to the ring (R166, R204). -/
  | appends (hholds : r.wheld = true ∨ r.semEmpty ≠ 0) (v : Word) :
      RingStep cap batch r (r.writing.appended batch v)
  /-- RING_FLUSH (R207). -/
  | flushes (hheld : r.wheld = true) : RingStep cap batch r r.publish
  /-- RING_POP (R208). -/
  | pops {v : Word} {r' : Ring} (hholds : r.rheld = true ∨ r.semFull ≠ 0)
      (htake : r.reading.takeHeld cap = .ok (v, r')) : RingStep cap batch r r'

theorem RingStep.keeps_ringWf {cap batch : Nat} {r r' : Ring} (hstep : RingStep cap batch r r')
    (hone : 1 ≤ batch) (hcap : batch ≤ cap) (h : ringWf cap batch r = true) :
    ringWf cap batch r' = true := by
  cases hstep with
  | keeps => exact h
  | appends hholds v => exact ringWf_appended h hone hcap hholds v
  | flushes hheld => exact ringWf_flushed h hcap hheld
  | pops hholds htake => exact ringWf_popped h hholds htake

/-! ### What each command does to DET_Q and to the cross-core channel -/

/-- DET_Q, the FIFO slot's full bit and the ring. -/
def State.channel (s : State) : List Word × Bool × Ring := (s.detQ, s.fifoFull, s.ring)

theorem State.channel_eq_iff {s t : State} :
    t.channel = s.channel ↔ t.detQ = s.detQ ∧ t.fifoFull = s.fifoFull ∧ t.ring = s.ring := by
  simp [State.channel]

/-- If the outcome is a next state, its channel is that of `s`. -/
def KeepsChannel (s : State) (r : Result) : Prop := ∀ t, r = .next t → t.channel = s.channel

@[simp] theorem keepsChannel_next {s t : State} :
    KeepsChannel s (.next t) ↔ t.channel = s.channel := by
  simp [KeepsChannel]

@[simp] theorem keepsChannel_fault (s : State) (e : Fault) : KeepsChannel s (.fault e) := by
  simp [KeepsChannel]

theorem keepsChannel_orFault {α : Type} {s : State} {x : Except Fault α} {f : α → Result}
    (h : ∀ v, x = .ok v → KeepsChannel s (f v)) : KeepsChannel s (orFault x f) := by
  cases x with
  | ok v => exact h v rfl
  | error e => exact keepsChannel_fault s e

@[simp] theorem State.respond_channel (s : State) (st : Status) (v : Word) :
    (s.respond st v).channel = s.channel := State.channel_eq_iff.2 (by simp)

@[simp] theorem State.count_channel (s : State) (c : CounterId) :
    (s.count c).channel = s.channel := rfl

@[simp] theorem State.genEnqueue_channel (s : State) (w : Word) :
    (s.genEnqueue w).channel = s.channel := rfl

@[simp] theorem State.setDb_channel (s : State) (i : Inst) (d : DBuf) :
    (s.setDb i d).channel = s.channel := State.channel_eq_iff.2 (by simp)

/-- The commands whose rule takes from DET_Q, or writes the slot or the ring (42_pulse.md,
43_scheduler.md, 45_xcore.md). -/
def writesChannel : Instr → Bool
  | .detPop | .rxPoll | .fifoPush _ | .fifoPop | .ringAppend _ | .ringFlush | .ringPop => true
  | _ => false

theorem exec_keepsChannel {i : Instr} (hi : writesChannel i = false) (s : State) :
    KeepsChannel s (exec i s) := by
  cases i with
  | detPop | rxPoll | fifoPush | fifoPop | ringAppend | ringFlush | ringPop => cases hi
  | nop => exact keepsChannel_next.2 (s.respond_channel _ _)
  | statsClear => exact keepsChannel_next.2 (State.respond_channel _ _ _)
  | csrRead | ppmEncode | ppmDecode | downmix | rxCorrect =>
    simp only [exec, execCsrRead, execPpmEncode, execPpmDecode, execDownmix, execRxCorrect]
    split <;> simp
  | setFormat a b =>
    simp only [exec, execSetFormat]
    split
    · exact keepsChannel_next.2 (State.respond_channel _ _ _)
    · simp
  | pdmStep x =>
    simp only [exec, execPdmStep]
    split
    · split <;> exact keepsChannel_next.2 (State.respond_channel _ _ _)
    · simp
  | genPush | dbBegin | dbCommit =>
    simp only [exec, execGenPush, execDbBegin, execDbCommit]
    split
    · simp
    · split <;> simp
  | dbPut j x =>
    simp only [exec, execDbPut]
    split
    · simp
    split
    · simp
    split
    · simp
    · exact keepsChannel_orFault fun _ _ => by simp
  | dbGet j =>
    cases j with
    | tx => simp [exec, execDbGet]
    | rx =>
      have hrx (d : DBuf) : { s with dbRx := d }.channel = s.channel := rfl
      simp only [exec, execDbGet]
      split
      · simp
      split
      · simp [hrx]
      · exact keepsChannel_orFault fun _ _ => by simp [hrx]

/-- What a command can do: take from DET_Q; write the slot in a FIFO build; and step the ring in a
RING build. -/
structure ChannelStep (s t : State) : Prop where
  detQ : t.detQ <:+ s.detQ
  slot : s.cfg.channelMode = .ring → t.fifoFull = s.fifoFull
  idleRing : s.cfg.channelMode = .fifo → t.ring = s.ring
  ring : RingStep s.cfg.ringCap s.cfg.ringBatch s.ring t.ring

theorem ChannelStep.of_channel_eq {s t : State} (h : t.channel = s.channel) : ChannelStep s t := by
  obtain ⟨hq, hslot, hring⟩ := State.channel_eq_iff.1 h
  exact ⟨by rw [hq], fun _ => hslot, fun _ => hring, hring ▸ .keeps⟩

/-- DET_Q keeps its newest measurements. -/
theorem ChannelStep.of_detQ {s t : State} (hq : t.detQ <:+ s.detQ)
    (hslot : t.fifoFull = s.fifoFull) (hring : t.ring = s.ring) : ChannelStep s t :=
  ⟨hq, fun _ => hslot, fun _ => hring, hring ▸ .keeps⟩

theorem ChannelStep.of_slot {s t : State} (hmode : s.cfg.channelMode = .fifo)
    (hq : t.detQ <:+ s.detQ) (hring : t.ring = s.ring) : ChannelStep s t :=
  ⟨hq, fun h => by simp [hmode] at h, fun _ => hring, hring ▸ .keeps⟩

theorem ChannelStep.of_ring {s t : State} (hmode : s.cfg.channelMode = .ring)
    (hq : t.detQ <:+ s.detQ) (hslot : t.fifoFull = s.fifoFull)
    (hring : RingStep s.cfg.ringCap s.cfg.ringBatch s.ring t.ring) : ChannelStep s t :=
  ⟨hq, fun _ => hslot, fun h => by simp [hmode] at h, hring⟩

theorem execDetPop_channelStep {s t : State} (h : execDetPop s = .next t) : ChannelStep s t := by
  cases hq : s.detQ with
  | nil =>
    rw [execDetPop_of_nil hq] at h
    cases h; exact .of_channel_eq (by simp)
  | cons m rest =>
    rw [execDetPop_of_cons hq] at h
    cases h; exact .of_detQ (by simp [hq]) (by simp) (by simp)

/-- An accepted measurement goes on by the channel of the build (R166). -/
theorem execRxPoll_channelStep {s t : State} (h : execRxPoll s = .next t) : ChannelStep s t := by
  cases hq : s.detQ with
  | nil =>
    rw [execRxPoll_of_nil hq] at h
    cases h; exact .of_channel_eq (by simp)
  | cons m rest =>
    cases haccept : accept s.cfg m with
    | false =>
      rw [execRxPoll_of_noise hq haccept] at h
      cases h; exact .of_detQ (by simp [hq]) (by simp) (by simp)
    | true =>
      rw [execRxPoll_of_accept hq haccept] at h
      obtain ⟨-, -, hs⟩ | ⟨hmode, -, hs⟩ | ⟨-, -, -, hs⟩ | ⟨hmode, hholds, -, hs⟩ |
        ⟨-, -, -, hs⟩ :=
        State.forward_cases ({ s with detQ := rest }.count .rxAccept) (toU32 (corr s.cfg m)) <;>
        rw [hs] at h <;> cases h
      · exact .of_detQ (by simp [hq]) (by simp) (by simp)
      · exact .of_slot hmode (by simp [hq]) (by simp)
      · exact .of_detQ (by simp [hq]) (by simp) (by simp)
      · exact .of_ring hmode (by simp [hq]) (by simp) (by simpa using .appends hholds _)

theorem execFifoPush_channelStep {w : Word} {s t : State} (h : execFifoPush w s = .next t) :
    ChannelStep s t := by
  cases hmode : s.cfg.channelMode with
  | ring =>
    rw [execFifoPush_of_ring w hmode] at h
    cases h; exact .of_channel_eq (by simp)
  | fifo =>
    cases hslot : s.fifoFull with
    | true =>
      rw [execFifoPush_of_full w hmode hslot] at h
      cases h; exact .of_channel_eq rfl
    | false =>
      rw [execFifoPush_of_free w hmode hslot] at h
      cases h; exact .of_slot hmode (by simp) (by simp)

theorem execFifoPop_channelStep {s t : State} (h : execFifoPop s = .next t) :
    ChannelStep s t := by
  cases hmode : s.cfg.channelMode with
  | ring =>
    rw [execFifoPop_of_ring hmode] at h
    cases h; exact .of_channel_eq (by simp)
  | fifo =>
    cases hslot : s.fifoFull with
    | true =>
      rw [execFifoPop_of_full hmode hslot] at h
      cases h; exact .of_slot hmode (by simp) (by simp)
    | false =>
      rw [execFifoPop_of_empty hmode hslot] at h
      cases h; exact .of_channel_eq rfl

theorem execRingAppend_channelStep {w : Word} {s t : State} (h : execRingAppend w s = .next t) :
    ChannelStep s t := by
  cases hmode : s.cfg.channelMode with
  | fifo =>
    rw [execRingAppend_of_fifo w hmode] at h
    cases h; exact .of_channel_eq (by simp)
  | ring =>
    simp only [execRingAppend, hmode, State.ringAppend_eq] at h
    split at h
    case isTrue =>
      cases h; exact .of_channel_eq (by simp)
    case isFalse hsome =>
      split at h <;> cases h
      have hholds : s.ring.wheld = true ∨ s.ring.semEmpty ≠ 0 := by
        simpa using not_and_or.1 hsome
      exact .of_ring hmode (by simp) (by simp) (by simpa using .appends hholds w)

theorem execRingFlush_channelStep {s t : State} (h : execRingFlush s = .next t) :
    ChannelStep s t := by
  cases hmode : s.cfg.channelMode with
  | fifo =>
    rw [execRingFlush_of_fifo hmode] at h
    cases h; exact .of_channel_eq (by simp)
  | ring =>
    by_cases hnothing : s.ring.wheld = false ∨ s.ring.wcount = 0
    · rw [execRingFlush_of_nothing hmode hnothing] at h
      cases h; exact .of_channel_eq (by simp)
    · obtain ⟨hheld, hcount⟩ := not_or.1 hnothing
      rw [Bool.not_eq_false] at hheld
      rw [execRingFlush_of_held hmode hheld (Nat.pos_of_ne_zero hcount)] at h
      cases h; exact .of_ring hmode (by simp) (by simp) (by simpa using .flushes hheld)

theorem execRingPop_channelStep {s t : State} (h : execRingPop s = .next t) :
    ChannelStep s t := by
  cases hmode : s.cfg.channelMode with
  | fifo =>
    rw [execRingPop_of_fifo hmode] at h
    cases h; exact .of_channel_eq (by simp)
  | ring =>
    simp only [execRingPop, hmode, Ring.acquireFull_eq] at h
    split at h
    case h_1 => cases h; exact .of_channel_eq (by simp)
    case h_2 r hr =>
      simp only [Option.ite_none_left_eq_some, Option.some.injEq] at hr
      obtain ⟨hsome, rfl⟩ := hr
      obtain ⟨⟨v, r'⟩, htake, ht⟩ := orFault_eq_next.1 h
      cases ht
      have hholds : s.ring.rheld = true ∨ s.ring.semFull ≠ 0 := by
        simpa using not_and_or.1 hsome
      exact .of_ring hmode (by simp) (by simp) (by simpa using .pops hholds htake)

/-- All that a command can do to DET_Q and to the channel. -/
theorem exec_channelStep {i : Instr} {s t : State} (h : exec i s = .next t) :
    ChannelStep s t := by
  cases hi : writesChannel i with
  | false => exact .of_channel_eq (exec_keepsChannel hi s t h)
  | true =>
    cases i with
    | detPop => exact execDetPop_channelStep h
    | rxPoll => exact execRxPoll_channelStep h
    | fifoPush w => exact execFifoPush_channelStep h
    | fifoPop => exact execFifoPop_channelStep h
    | ringAppend w => exact execRingAppend_channelStep h
    | ringFlush => exact execRingFlush_channelStep h
    | ringPop => exact execRingPop_channelStep h
    | _ => cases hi

/-! ### What each agent leaves of the channel -/

theorem State.tick_channel (s : State) : s.tick.channel = s.channel := by
  unfold State.tick
  split <;> rfl

theorem State.genStart_channel (s : State) : s.genStart.channel = s.channel := by
  unfold State.genStart
  split <;> rfl

theorem State.genEnd_channel (s : State) : s.genEnd.channel = s.channel := by
  unfold State.genEnd
  split <;> rfl

theorem takeTick_keepsChannel (s : State) : KeepsChannel s (takeTick s) := by
  obtain ⟨_, _, -, -, -, h⟩ | ⟨_, -, -, -, h⟩ | ⟨-, -, h⟩ | ⟨-, h⟩ := takeTick_cases s <;>
    simp only [h, keepsChannel_next, keepsChannel_fault] <;> rfl

theorem State.capture_ring (s : State) (m : Word) : (s.capture m).ring = s.ring := by
  unfold State.capture
  dsimp only
  split <;> rfl

theorem State.forwardDone_ring (s : State) (p : PortId) (v : Word) :
    (s.forwardDone p v).ring = s.ring := by
  unfold State.forwardDone
  split <;> simp

/-! ### The invariant along a run -/

/-- The invariant of R30, in a build that the spec admits. -/
def State.RingInvariant (s : State) : Prop :=
  s.cfg.wf = true ∧ ringWf s.cfg.ringCap s.cfg.ringBatch s.ring = true

theorem State.RingInvariant.congr {s t : State} (hs : s.RingInvariant) (hcfg : t.cfg = s.cfg)
    (hring : t.ring = s.ring) : t.RingInvariant := by
  rwa [State.RingInvariant, hcfg, hring]

theorem State.RingInvariant.of_channel {s t : State} (hs : s.RingInvariant) (hcfg : t.cfg = s.cfg)
    (hchannel : t.channel = s.channel) : t.RingInvariant :=
  have ⟨_, _, hring⟩ := State.channel_eq_iff.1 hchannel
  hs.congr hcfg hring

theorem exec_keeps_ringInvariant {i : Instr} {s t : State} (hs : s.RingInvariant)
    (h : exec i s = .next t) : t.RingInvariant := by
  obtain ⟨hcfg, hring⟩ := hs
  obtain ⟨hone, hcap⟩ := Config.ringBatch_bounds hcfg
  rw [State.RingInvariant, exec_cfg h]
  exact ⟨hcfg, (exec_channelStep h).ring.keeps_ringWf hone hcap hring⟩

theorem ringInvariant_keptByAgents : KeptByAgents State.RingInvariant := by
  intro s t hstep hs
  have hcfg := hstep.cfg
  cases hstep with
  | chosen => exact hs
  | presented | rejected => exact hs.congr hcfg (by simp)
  | executed p h => exact exec_keeps_ringInvariant (s := { s with active := p }) hs h
  | completed p v => exact hs.congr hcfg (s.forwardDone_ring p v)
  | ticked => exact hs.of_channel hcfg s.tick_channel
  | sent _ h => exact hs.of_channel hcfg (takeTick_keepsChannel s t h)
  | started => exact hs.of_channel hcfg s.genStart_channel
  | ended => exact hs.of_channel hcfg s.genEnd_channel
  | captured m => exact hs.congr hcfg (s.capture_ring m)
  | powered =>
    obtain ⟨hbuild, -⟩ := hs
    exact ⟨hbuild, ringWf_empty _ _ _⟩

/-! ### The bounds of R30 -/

theorem Ring.rsize_le_of_arrayWf {cap : Nat} {r : Ring} {k : Half} (h : r.arrayWf cap k = true) :
    r.rsize k ≤ cap := by
  obtain ⟨-, hpub, hfree⟩ := Ring.arrayWf_iff.1 h
  cases hp : r.published k with
  | true => exact (hpub hp).1.2
  | false => exact (hfree hp).trans_le (Nat.zero_le cap)

theorem Ring.wcount_le_of_writerWf {cap batch : Nat} {r : Ring} (h : r.writerWf batch = true)
    (hcap : batch ≤ cap) : r.wcount ≤ cap := by
  obtain ⟨hheld, hfree⟩ := Ring.writerWf_iff.1 h
  cases hw : r.wheld with
  | true => exact (hheld hw).1.2.le.trans hcap
  | false => exact (hfree hw).trans_le (Nat.zero_le cap)

theorem Ring.rpos_le_of_readerWf {r : Ring} (h : r.readerWf = true) : r.rpos ≤ r.rsize r.ri := by
  obtain ⟨hheld, hfree⟩ := Ring.readerWf_iff.1 h
  cases hr : r.rheld with
  | true => exact (hheld hr).2.le
  | false => exact (hfree hr).trans_le (Nat.zero_le _)

/-- Settles O42: each agent keeps the invariant (`ringInvariant_keptByAgents`), because each case of
`RingStep` does. -/
theorem ringInvariantIsKept : Obligations.RingInvariantIsKept := by
  refine ⟨fun c n => ringWf_empty _ _ _, fun s t hcfg hs h => ?kept,
    fun cap batch r h hcap => ?parts⟩
  case kept =>
    have ⟨_, hring⟩ := ringInvariant_keptByAgents.of_step ⟨hcfg, hs⟩ h
    exact hring
  case parts =>
    obtain ⟨hsum, -, harr, hwrite, hread⟩ := ringWf_iff.1 h
    exact ⟨hsum, by omega, by omega, fun k => Ring.rsize_le_of_arrayWf (harr k),
      Ring.wcount_le_of_writerWf hwrite hcap,
      (Ring.rpos_le_of_readerWf hread).trans (Ring.rsize_le_of_arrayWf (harr r.ri))⟩

end Sys2Proof.Machine
end

section
/-! ## Every step keeps the state well formed (R25, R26, R28, R30, R31, R143, R256)

The invariant of the whole state falls into parts that each agent keeps, beside those of the double
buffers and of the ring: the measurements; the generator, whose widths the build and the TX buffers
bound; the modulator; and the ports with the channel they forward to. -/

namespace Sys2Proof.Machine

/-! ### The measurements (R26) -/

/-- DET_Q keeps its depth. -/
def State.DetInvariant (s : State) : Prop := s.detQ.length ≤ s.cfg.detQDepth

theorem State.DetInvariant.of_le {s t : State} (hs : s.DetInvariant) (hcfg : t.cfg = s.cfg)
    (hle : t.detQ.length ≤ s.detQ.length) : t.DetInvariant := by
  rw [State.DetInvariant, hcfg]
  exact hle.trans hs

theorem State.DetInvariant.of_channel {s t : State} (hs : s.DetInvariant) (hcfg : t.cfg = s.cfg)
    (hchannel : t.channel = s.channel) : t.DetInvariant :=
  have ⟨hq, _⟩ := State.channel_eq_iff.1 hchannel
  hs.of_le hcfg (by rw [hq])

theorem State.forwardDone_detQ (s : State) (p : PortId) (v : Word) :
    (s.forwardDone p v).detQ = s.detQ := by
  unfold State.forwardDone
  split <;> simp

/-- A capture finds space, or is dropped (R145). -/
theorem State.DetInvariant.capture {s : State} (hs : s.DetInvariant) (m : Word) :
    (s.capture m).DetInvariant := by
  obtain hspace | hfull := Nat.lt_or_ge s.detQ.length s.cfg.detQDepth
  · rw [State.capture_of_space m hspace]
    simpa [State.DetInvariant] using hspace
  · rw [State.capture_of_full m hfull]
    exact hs

theorem detInvariant_keptByAgents : KeptByAgents State.DetInvariant := by
  intro s t hstep hs
  have hcfg := hstep.cfg
  cases hstep with
  | chosen => exact hs
  | presented | rejected => exact hs.of_le hcfg (by simp)
  | executed p h => exact hs.of_le hcfg (exec_channelStep h).detQ.length_le
  | completed p v => exact hs.of_le hcfg (by rw [s.forwardDone_detQ])
  | ticked => exact hs.of_channel hcfg s.tick_channel
  | sent _ h => exact hs.of_channel hcfg (takeTick_keepsChannel s t h)
  | started => exact hs.of_channel hcfg s.genStart_channel
  | ended => exact hs.of_channel hcfg s.genEnd_channel
  | captured m => exact hs.capture m
  | powered => exact Nat.zero_le _

/-! ### The generator (R25, R143, R146, R160) -/

/-- GEN_Q keeps its depth, the pin follows the phase, and no width that has entered GEN_Q is 0. -/
structure State.GenInvariant (s : State) : Prop where
  depth : s.genQ.length ≤ s.cfg.genQDepth
  pin : s.PinFollowsPhase
  widths : ∀ w ∈ s.widths, w ≠ 0

theorem generatorWf_iff {s : State} :
    generatorWf s = true ↔ s.PinFollowsPhase ∧ ∀ w ∈ s.widths, w ≠ 0 := by
  cases hg : s.genState <;>
    simp [generatorWf, State.PinFollowsPhase, State.widths, hg, or_imp, forall_and] <;> tauto

/-- Widths other than 0 are added at the end of GEN_Q, within its depth. -/
theorem State.GenInvariant.of_added {s t : State} {added : List Word} (hs : s.GenInvariant)
    (hcfg : t.cfg = s.cfg) (hgen : t.owned.generator = s.owned.generator)
    (hq : t.genQ = s.genQ ++ added) (hdepth : t.genQ.length ≤ s.cfg.genQDepth)
    (hadded : ∀ w ∈ added, w ≠ 0) : t.GenInvariant where
  depth := by rwa [hcfg]
  pin := by
    obtain ⟨hpin, hstate, -, -⟩ := State.generator_eq_iff.1 hgen
    rw [State.PinFollowsPhase, hpin, hstate]
    exact hs.pin
  widths w hw := by
    rw [State.widths_of_generator_eq hgen hq, List.mem_append] at hw
    exact hw.elim (hs.widths w) (hadded w)

theorem State.GenInvariant.congr {s t : State} (hs : s.GenInvariant) (hcfg : t.cfg = s.cfg)
    (hgen : t.owned.generator = s.owned.generator) (hq : t.genQ = s.genQ) : t.GenInvariant :=
  hs.of_added (added := []) hcfg hgen (by simp [hq]) (by rw [hq]; exact hs.depth) (by simp)

theorem execGenPush_keeps_genInvariant {w : Word} {s t : State} (hs : s.GenInvariant)
    (h : execGenPush w s = .next t) : t.GenInvariant := by
  by_cases hw : w = 0
  · subst hw
    rw [execGenPush_zero] at h
    cases h; exact hs.congr (by simp) (by simp) (by simp)
  obtain hspace | hfull := Nat.lt_or_ge s.genQ.length s.cfg.genQDepth
  · rw [execGenPush_of_space hw hspace] at h
    cases h
    exact hs.of_added (added := [w]) (by simp) (by simp) (by simp) (by simpa using hspace)
      (by simpa using hw)
  · rw [execGenPush_of_full hw hfull] at h
    cases h; exact hs

theorem exec_keeps_genInvariant {i : Instr} {s t : State} (hs : s.GenInvariant)
    (h : exec i s = .next t) : t.GenInvariant := by
  by_cases hi : ∃ w, i = .genPush w
  · obtain ⟨w, rfl⟩ := hi
    exact execGenPush_keeps_genInvariant hs h
  · obtain ⟨-, -, hgen⟩ := exec_writes_only_own h
    exact hs.congr (exec_cfg h) hgen (exec_keepsGenQ (fun w hw => hi ⟨w, hw⟩) s t h)

theorem Config.one_le_minIntervalCycles {c : Config} (h : c.wf = true) :
    1 ≤ c.minIntervalCycles := by
  simp only [Config.wf, Config.minIntervalOk, Bool.and_eq_true, decide_eq_true_eq] at h
  omega

/-- The widths of the codes that a buffer holds, and so of silence, are not 0 (R9, R160). -/
theorem widthSent_ne_zero {c : Config} {code : Word} (h : c.wf = true) (hcode : code.toNat ≤ 1023) :
    widthSent c code ≠ 0 := by
  have hmin := Config.one_le_minIntervalCycles h
  have hmax := Config.minIntervalCycles_lt h
  rw [Ne, ← BitVec.toNat_inj, widthSent_toNat (by omega)]
  exact fun h0 => absurd h0 (by simp; omega)

theorem silenceWidth_eq (c : Config) : silenceWidth c = widthSent c 0 := rfl

/-- What a tick sends is the width of a code of the TX buffer, or of silence (R162). -/
theorem takeTick_genQ {s t : State} (hcfg : s.cfg.wf = true) (hdb : s.DbInvariant .tx)
    (h : takeTick s = .next t) : ∃ w, w ≠ 0 ∧ t.genQ = s.genQ ++ [w] := by
  cases hu : s.dbTx.unread with
  | nil =>
    rw [takeTick_of_unread_nil hdb hu] at h
    cases h
    exact ⟨_, silenceWidth_eq s.cfg ▸ widthSent_ne_zero hcfg (by simp), by simp⟩
  | cons c rest =>
    obtain ⟨d, htick, hc, -, -⟩ := takeTick_of_unread_cons hdb hu
    rw [htick] at h
    cases h
    exact ⟨_, widthSent_ne_zero hcfg ((elementOk_tx_iff _ c).1 hc), by simp⟩

theorem takeTick_keeps_genInvariant {s t : State} (hcfg : s.cfg.wf = true)
    (hdb : s.DbInvariant .tx) (hen : s.txTickEnabled = true) (hs : s.GenInvariant)
    (h : takeTick s = .next t) : t.GenInvariant := by
  obtain ⟨w, hw, hq⟩ := takeTick_genQ hcfg hdb h
  obtain ⟨-, hspace⟩ := s.txTickEnabled_iff.1 hen
  have ho := takeTick_keepsOwned s t h
  exact hs.of_added (congrArg Owned.cfg ho) (by rw [ho]) hq (by simpa [hq] using hspace)
    (by simpa using hw)

theorem State.GenInvariant.genStart {s : State} (hs : s.GenInvariant) :
    s.genStart.GenInvariant where
  depth := by
    have hdepth := hs.depth
    obtain ⟨w, rest, -, hq, h⟩ | h := s.genStart_cases <;> rw [h]
    · rw [hq, List.length_cons] at hdepth
      exact (Nat.le_succ _).trans hdepth
    · exact hdepth
  pin := State.genStart_pin hs.pin
  widths := by
    rw [s.genStart_widths]
    exact hs.widths

theorem State.GenInvariant.genEnd {s : State} (hs : s.GenInvariant) : s.genEnd.GenInvariant where
  depth := by
    rw [s.genEnd_genQ, (AgentStep.ended (s := s)).cfg]
    exact hs.depth
  pin := State.genEnd_pin hs.pin
  widths := by
    rw [s.genEnd_widths]
    exact hs.widths

theorem State.resetAt_genInvariant (c : Config) (n : Nat) : (State.resetAt c n).GenInvariant :=
  ⟨Nat.zero_le _, rfl, fun _ hw => nomatch hw⟩

/-- The build and the TX buffers bound the widths that a tick sends. -/
theorem AgentStep.keeps_genInvariant {s t : State} (hstep : AgentStep s t)
    (hbuild : s.cfg.wf = true) (hdb : s.DbInvariant .tx) (hs : s.GenInvariant) :
    t.GenInvariant := by
  have hcfg := hstep.cfg
  cases hstep with
  | chosen => exact hs.congr hcfg rfl rfl
  | presented | rejected => exact hs.congr hcfg (by simp) (by simp)
  | executed p h =>
    have hactive : { s with active := p }.GenInvariant := hs.congr rfl rfl rfl
    exact exec_keeps_genInvariant hactive h
  | completed p v => exact hs.congr hcfg (by rw [s.forwardDone_owned]) (s.forwardDone_genQ p v)
  | ticked => exact hs.congr hcfg (by rw [s.tick_owned]) s.tick_genQ
  | sent hen h => exact takeTick_keeps_genInvariant hbuild hdb hen hs h
  | started => exact hs.genStart
  | ended => exact hs.genEnd
  | captured m => exact hs.congr hcfg (by rw [s.capture_owned]) (s.capture_genQ m)
  | powered => exact (State.resetAt_genInvariant s.cfg s.seeds).congr rfl rfl rfl

/-! ### The modulator (R31, R118, R119) -/

/-- PREV is 0 or the full scale of a depth, of either sign. -/
def Pdm.PrevLegal (p : Pdm) : Prop :=
  p.prev = 0 ∨ ∃ d : Depth, p.prev = toU32 d.max ∨ p.prev = toU32 (-d.max)

theorem pdmWf_iff {p : Pdm} : pdmWf p = true ↔ p.PrevLegal ∧ p.acc.toNat < 2 ^ p.cnt.val := by
  have hdepth : (∃ d : Depth, p.prev = toU32 d.max ∨ p.prev = toU32 (-d.max)) ↔
      (p.prev = toU32 Depth.d16.max ∨ p.prev = toU32 (-Depth.d16.max)) ∨
        (p.prev = toU32 Depth.d24.max ∨ p.prev = toU32 (-Depth.d24.max)) :=
    ⟨fun ⟨d, h⟩ => by cases d; exacts [.inl h, .inr h], fun h => h.elim (⟨_, ·⟩) (⟨_, ·⟩)⟩
  simp only [pdmWf, Pdm.PrevLegal, hdepth, Bool.and_eq_true, Bool.or_eq_true, decide_eq_true_eq,
    or_assoc]

/-- R118: the sample leaves the full scale of its depth in PREV, and ACC and CNT as they are. -/
theorem Pdm.integrate_wf {d : Depth} {x : Int} {p : Pdm} (h : pdmWf p = true) :
    pdmWf (p.integrate d x).2 = true := by
  obtain ⟨-, hacc⟩ := pdmWf_iff.1 h
  refine pdmWf_iff.2 ⟨.inr ⟨d, ?_⟩, hacc⟩
  dsimp only [Pdm.integrate]
  split
  · exact .inl rfl
  · exact .inr rfl

theorem bitField_toNat_lt (b : Bool) (lo : Nat) : (bitField b lo).toNat < 2 ^ (lo + 1) := by
  cases b with
  | false => simp [bitField]
  | true =>
    simp only [bitField, if_true, BitVec.toNat_shiftLeft, Nat.shiftLeft_eq]
    refine (Nat.mod_le _ _).trans_lt ?_
    simpa using Nat.pow_lt_pow_right (a := 2) (by omega) (Nat.lt_succ_self lo)

/-- R119: the bit goes to CNT, and CNT goes on by one or starts again with ACC. -/
theorem Pdm.pack_wf {bit : Bool} {p : Pdm} (h : pdmWf p = true) :
    pdmWf (p.pack bit).2 = true := by
  obtain ⟨hprev, hacc⟩ := pdmWf_iff.1 h
  by_cases hlast : p.cnt.val = 31
  · rw [Pdm.pack_of_last hlast]
    exact pdmWf_iff.2 ⟨hprev, Nat.one_pos⟩
  · have hcnt : p.cnt.val + 1 < 32 := by omega
    rw [Pdm.pack_of_lt (n := ⟨p.cnt.val + 1, hcnt⟩) rfl]
    refine pdmWf_iff.2 ⟨hprev, ?_⟩
    rw [BitVec.toNat_or]
    exact Nat.or_lt_two_pow (hacc.trans (Nat.pow_lt_pow_succ (by omega))) (bitField_toNat_lt _ _)

theorem execPdmStep_keeps_pdmWf {x : Word} {s t : State} (hs : pdmWf s.pdm = true)
    (h : execPdmStep x s = .next t) : pdmWf t.pdm = true := by
  have hpack := Pdm.pack_wf (bit := (s.pdm.integrate s.fmtDepth (sext32 x)).1)
    (Pdm.integrate_wf (d := s.fmtDepth) (x := sext32 x) hs)
  unfold execPdmStep at h
  split at h
  · dsimp only at h
    split at h <;> cases h
    case h_1 hp | h_2 hp => rw [hp] at hpack; simpa using hpack
  · cases h
    simpa using hs

theorem pdmWf_keptByAgents : KeptByAgents (pdmWf ·.pdm = true) := by
  intro s t hstep hs
  have hkept (ho : t.owned.pdm = s.owned.pdm) : pdmWf t.pdm = true := by
    have hpdm : t.pdm = s.pdm := ho
    rwa [hpdm]
  cases hstep with
  | chosen => exact hs
  | presented | rejected => exact hkept (by simp)
  | @executed i _ p h =>
    by_cases hi : ∃ x, i = .pdmStep x
    · obtain ⟨x, rfl⟩ := hi
      exact execPdmStep_keeps_pdmWf (s := { s with active := p }) hs h
    · obtain ⟨-, hpdm, -⟩ := exec_writes_only_own h
      exact hkept (hpdm fun x hx => hi ⟨x, hx⟩)
  | completed p v => exact hkept (by rw [s.forwardDone_owned])
  | ticked => exact hkept (by rw [s.tick_owned])
  | sent _ h => exact hkept (by rw [takeTick_keepsOwned s t h])
  | started =>
    obtain ⟨g, ho⟩ := s.genStart_owned
    exact hkept (by rw [ho])
  | ended =>
    obtain ⟨g, ho⟩ := s.genEnd_owned
    exact hkept (by rw [ho])
  | captured m => exact hkept (by rw [s.capture_owned])
  | powered => exact pdmWf_iff.2 ⟨.inl rfl, Nat.one_pos⟩

/-! ### The ports and the channel they forward to (R29, R30, R165, R166, R256) -/

theorem portWf_of_free {m : ChannelMode} {x : PortState} (h : x.hold = .none) :
    portWf m x = true := by
  simp [portWf, h]

theorem portWf_of_fwd_iff {m : ChannelMode} {x : PortState} {v : Word} (h : x.hold = .fwd v) :
    portWf m x = true ↔ m = .fifo ∧ 1 ≤ v.toNat ∧ v.toNat ≤ maxCode ∧ x.cmd = none := by
  simp [portWf, h, and_assoc]

/-- A port that answers has no command left (R256). -/
theorem portWf_answered {m : ChannelMode} {x : PortState} (rs : List Response)
    (h : portWf m x = true) : portWf m { x with cmd := none, responses := rs } = true := by
  obtain ⟨hold, cmd, old⟩ := x
  cases hold with
  | none => exact portWf_of_free rfl
  | fwd v =>
    obtain ⟨hm, hone, hmax, -⟩ := (portWf_of_fwd_iff rfl).1 h
    exact (portWf_of_fwd_iff rfl).2 ⟨hm, hone, hmax, rfl⟩

/-- The ports are well formed, and the discipline that the build does not have is at rest. -/
structure State.LinkInvariant (s : State) : Prop where
  ports : ∀ p, portWf s.cfg.channelMode (s.port p) = true
  mode : modeWf s = true

/-- The discipline that the build does not have rests on the slot's full bit or on the ring. -/
theorem modeWf_congr {s t : State} (hcfg : t.cfg = s.cfg)
    (hslot : s.cfg.channelMode = .ring → t.fifoFull = s.fifoFull)
    (hring : s.cfg.channelMode = .fifo → t.ring = s.ring) : modeWf t = modeWf s := by
  cases hmode : s.cfg.channelMode with
  | fifo => simp only [modeWf, hcfg, hmode, hring hmode]
  | ring => simp only [modeWf, hcfg, hmode, hslot hmode]

theorem State.LinkInvariant.congr {s t : State} (hs : s.LinkInvariant) (hcfg : t.cfg = s.cfg)
    (hports : ∀ p, t.port p = s.port p) (hslot : t.fifoFull = s.fifoFull)
    (hring : t.ring = s.ring) : t.LinkInvariant where
  ports p := by
    rw [hcfg, hports]
    exact hs.ports p
  mode := (modeWf_congr hcfg (fun _ => hslot) (fun _ => hring)).trans hs.mode

theorem State.LinkInvariant.of_channel {s t : State} (hs : s.LinkInvariant) (hcfg : t.cfg = s.cfg)
    (hports : t.ports = s.ports) (hchannel : t.channel = s.channel) : t.LinkInvariant :=
  have ⟨_, hport⟩ := State.ports_eq_iff.1 hports
  have ⟨_, hslot, hring⟩ := State.channel_eq_iff.1 hchannel
  hs.congr hcfg hport hslot hring

theorem portWf_respond {m : ChannelMode} {s : State} (st : Status) (v : Word)
    (h : ∀ p, portWf m (s.port p) = true) (p : PortId) :
    portWf m ((s.respond st v).port p) = true := by
  rw [State.respond_port]
  split
  · exact portWf_answered _ (h s.active)
  · exact h p

/-- The value that an RX_POLL forwards is an accepted one (R165, R166). -/
theorem toU32_corr_of_accept {c : Config} {m : Word} (h : accept c m = true) :
    1 ≤ (toU32 (corr c m)).toNat ∧ (toU32 (corr c m)).toNat ≤ maxCode := by
  obtain ⟨hpos, hmax⟩ := (accept_iff c m).1 h
  have hnat := toU32_toNat (i := corr c m) hpos.le (by omega)
  have hcode : maxCode = 1024 := rfl
  omega

/-- An RX_POLL holds its port only in a FIFO build, and with an accepted value. -/
theorem execRxPoll_ports {s t : State} (hs : ∀ p, portWf s.cfg.channelMode (s.port p) = true)
    (h : execRxPoll s = .next t) (p : PortId) : portWf s.cfg.channelMode (t.port p) = true := by
  have hkept {s' : State} (hport : ∀ p, s'.port p = s.port p) (st : Status) (v : Word) :
      portWf s.cfg.channelMode ((s'.respond st v).port p) = true :=
    portWf_respond st v (fun q => by rw [hport]; exact hs q) p
  cases hq : s.detQ with
  | nil =>
    rw [execRxPoll_of_nil hq] at h
    cases h; exact hkept (fun _ => rfl) _ _
  | cons m rest =>
    cases haccept : accept s.cfg m with
    | false =>
      rw [execRxPoll_of_noise hq haccept] at h
      cases h; exact hkept (by simp) _ _
    | true =>
      rw [execRxPoll_of_accept hq haccept] at h
      obtain ⟨hmode, -, hf⟩ | ⟨-, -, hf⟩ | ⟨-, -, -, hf⟩ | ⟨-, -, -, hf⟩ | ⟨-, -, -, hf⟩ :=
        State.forward_cases ({ s with detQ := rest }.count .rxAccept) (toU32 (corr s.cfg m)) <;>
        rw [hf] at h <;> cases h
      · rw [State.holdForward_port]
        split
        · obtain ⟨hone, hmax⟩ := toU32_corr_of_accept haccept
          exact (portWf_of_fwd_iff rfl).2 ⟨hmode, hone, hmax, rfl⟩
        · simpa using hs p
      all_goals exact hkept (fun q => by cases q <;> rfl) _ _

/-- Every other command waits, or answers with its ports left alone until then. -/
theorem exec_ports {i : Instr} {s t : State}
    (hs : ∀ p, portWf s.cfg.channelMode (s.port p) = true) (h : exec i s = .next t) (p : PortId) :
    portWf s.cfg.channelMode (t.port p) = true := by
  by_cases hi : i = .rxPoll
  · subst hi
    exact execRxPoll_ports hs h p
  have hout := exec_outcome i s
  rw [h] at hout
  cases hout with
  | waits => exact hs p
  | holds _ hpoll => exact absurd hpoll hi
  | answers hports =>
    obtain ⟨-, hport⟩ := State.ports_eq_iff.1 hports
    exact portWf_respond _ _ (fun q => by rw [hport]; exact hs q) p

theorem exec_keeps_linkInvariant {i : Instr} {s t : State} (hs : s.LinkInvariant)
    (h : exec i s = .next t) : t.LinkInvariant where
  ports := by
    rw [exec_cfg h]
    exact exec_ports hs.ports h
  mode :=
    have hstep := exec_channelStep h
    (modeWf_congr (exec_cfg h) hstep.slot hstep.idleRing).trans hs.mode

/-- The completion frees its port; it writes the slot in a FIFO build only, where its port is held
(R168). -/
theorem State.LinkInvariant.forwardDone {s : State} {p : PortId} {v : Word} (hs : s.LinkInvariant)
    (hhold : (s.port p).hold = .fwd v) : (s.forwardDone p v).LinkInvariant := by
  have hcfg := (AgentStep.completed p v hhold).cfg
  obtain ⟨hmode, -⟩ := (portWf_of_fwd_iff hhold).1 (hs.ports p)
  cases hslot : s.fifoFull with
  | true =>
    rw [State.forwardDone_of_full p v hslot]
    exact hs
  | false =>
    refine ⟨fun q => ?_, (modeWf_congr hcfg (fun h => by simp [hmode] at h)
      fun _ => s.forwardDone_ring p v).trans hs.mode⟩
    rw [hcfg, State.forwardDone_of_free p v hslot]
    refine portWf_respond _ _ (fun q => ?_) q
    rw [State.setPort_port]
    split
    · exact portWf_of_free rfl
    · exact hs.ports q

theorem State.tick_ports (s : State) : s.tick.ports = s.ports := by
  unfold State.tick
  split <;> rfl

theorem State.genStart_ports (s : State) : s.genStart.ports = s.ports := by
  unfold State.genStart
  split <;> rfl

theorem State.genEnd_ports (s : State) : s.genEnd.ports = s.ports := by
  unfold State.genEnd
  split <;> rfl

theorem takeTick_ports {s t : State} (h : takeTick s = .next t) : t.ports = s.ports := by
  obtain ⟨_, _, -, -, -, hs⟩ | ⟨_, -, -, -, hs⟩ | ⟨-, -, hs⟩ | ⟨-, hs⟩ := takeTick_cases s <;>
    rw [hs] at h <;> cases h <;> rfl

theorem State.capture_ports (s : State) (m : Word) :
    (s.capture m).ports = s.ports ∧ (s.capture m).fifoFull = s.fifoFull := by
  unfold State.capture
  dsimp only
  split <;> exact ⟨rfl, rfl⟩

theorem linkInvariant_keptByAgents : KeptByAgents State.LinkInvariant := by
  intro s t hstep hs
  have hcfg := hstep.cfg
  cases hstep with
  | chosen => exact hs.of_channel hcfg rfl rfl
  | presented p x hfree =>
    refine ⟨fun q => ?_, (modeWf_congr hcfg (by simp) (by simp)).trans hs.mode⟩
    obtain ⟨hhold, -⟩ := (s.portFree_iff p).1 hfree
    rw [hcfg, State.present_port]
    split
    · exact portWf_of_free hhold
    · exact hs.ports q
  | executed p h =>
    have hactive : { s with active := p }.LinkInvariant := hs.congr rfl (by simp) rfl rfl
    exact exec_keeps_linkInvariant hactive h
  | rejected p =>
    refine ⟨fun q => ?_, (modeWf_congr hcfg (by simp) (by simp)).trans hs.mode⟩
    rw [hcfg]
    exact portWf_respond _ _ (fun q => by simpa using hs.ports q) q
  | completed p v hhold => exact hs.forwardDone hhold
  | ticked => exact hs.of_channel hcfg s.tick_ports s.tick_channel
  | sent _ h => exact hs.of_channel hcfg (takeTick_ports h) (takeTick_keepsChannel s t h)
  | started => exact hs.of_channel hcfg s.genStart_ports s.genStart_channel
  | ended => exact hs.of_channel hcfg s.genEnd_ports s.genEnd_channel
  | captured m =>
    obtain ⟨hports, hslot⟩ := s.capture_ports m
    obtain ⟨-, hport⟩ := State.ports_eq_iff.1 hports
    exact hs.congr hcfg hport hslot (s.capture_ring m)
  | powered =>
    exact ⟨fun p => by cases p <;> rfl, (modeWf_congr rfl (fun _ => rfl) fun _ => rfl).trans
      (modeWf_resetAt s.cfg s.seeds)⟩

/-! ### The whole state -/

/-- The invariant of the whole state, by the parts that the agents keep. -/
theorem State.wf_iff {s : State} :
    s.wf = true ↔
      s.RingInvariant ∧ (∀ j, s.DbInvariant j) ∧ s.DetInvariant ∧ s.GenInvariant ∧
        pdmWf s.pdm = true ∧ s.LinkInvariant := by
  simp only [State.wf, Bool.and_eq_true, generatorWf_iff, queuesWf, decide_eq_true_eq]
  constructor
  · rintro ⟨⟨⟨⟨⟨⟨⟨⟨⟨hcfg, hgenQ, hdetQ⟩, hpin, hwidths⟩, htx⟩, hrx⟩, hring⟩, hpdm⟩, ha⟩, hb⟩, hmode⟩
    exact ⟨⟨hcfg, hring⟩, fun j => by cases j <;> assumption, hdetQ, ⟨hgenQ, hpin, hwidths⟩, hpdm,
      ⟨fun p => by cases p <;> assumption, hmode⟩⟩
  · rintro ⟨⟨hcfg, hring⟩, hdb, hdetQ, ⟨hgenQ, hpin, hwidths⟩, hpdm, ⟨hports, hmode⟩⟩
    exact ⟨⟨⟨⟨⟨⟨⟨⟨⟨hcfg, hgenQ, hdetQ⟩, hpin, hwidths⟩, hdb .tx⟩, hdb .rx⟩, hring⟩, hpdm⟩,
      hports .a⟩, hports .b⟩, hmode⟩

theorem wf_keptByAgents : KeptByAgents (·.wf = true) := by
  intro s t hstep hs
  obtain ⟨hring, hdb, hdet, hgen, hpdm, hlink⟩ := State.wf_iff.1 hs
  have ⟨hbuild, _⟩ := hring
  exact State.wf_iff.2 ⟨ringInvariant_keptByAgents hstep hring,
    fun j => dbInvariant_keptByAgents j hstep (hdb j), detInvariant_keptByAgents hstep hdet,
    hstep.keeps_genInvariant hbuild (hdb .tx) hgen, pdmWf_keptByAgents hstep hpdm,
    linkInvariant_keptByAgents hstep hlink⟩

/-- Settles O43: each part of the invariant is kept by each agent (`wf_keptByAgents`). -/
theorem everyStepKeepsTheStateWellFormed : Obligations.EveryStepKeepsTheStateWellFormed :=
  fun _ _ hs h => wf_keptByAgents.of_step hs h

end Sys2Proof.Machine
end

section
/-! ## The registers (R33 to R40, R231)

CSR_READ answers the value of a mapped register and changes nothing else; what each register shows
is then a fact about its word, bit by bit. -/

namespace Sys2Proof.Machine

/-! ### The answer of CSR_READ (R39, R231) -/

theorem exec_csrRead_of_mapped {csr : BitVec 8} {s : State} {v : Word}
    (h : csrValue s csr = some v) : exec (.csrRead csr) s = .next (s.respond .ok v) := by
  simp only [exec, execCsrRead, h]

theorem exec_csrRead_of_unmapped {csr : BitVec 8} {s : State} (h : csrValue s csr = none) :
    exec (.csrRead csr) s = .next (s.respond .ecsr 0) := by
  simp only [exec, execCsrRead, h]

theorem csrValue_of_unmapped {csr : BitVec 8} (s : State)
    (h : 0x1D ≤ csr.toNat ∧ csr.toNat ≤ 0x1F ∨ 0x2B ≤ csr.toNat) : csrValue s csr = none := by
  unfold csrValue
  split
  case h_41 => rfl
  all_goals omega

theorem csrValue_of_mapped {csr : BitVec 8} (s : State)
    (h : ¬ (0x1D ≤ csr.toNat ∧ csr.toNat ≤ 0x1F ∨ 0x2B ≤ csr.toNat)) :
    ∃ v, csrValue s csr = some v := by
  unfold csrValue
  generalize csr.toNat = n at h ⊢
  obtain hlow | hhigh : n < 0x1D ∨ 0x20 ≤ n ∧ n < 0x2B := by omega
  · interval_cases n <;> exact ⟨_, rfl⟩
  · obtain ⟨hmin, hmax⟩ := hhigh
    interval_cases n <;> exact ⟨_, rfl⟩

/-- Settles O6: the mapped addresses are those of `csrValue`. -/
theorem csrReadAnswersAtEveryAddress : Obligations.CsrReadAnswersAtEveryAddress := by
  refine fun csr a b s => ⟨decode_of_encode_no_operands (by decide) rfl a b,
    fun h => exec_csrRead_of_unmapped (csrValue_of_unmapped s h), fun h => ?_⟩
  obtain ⟨v, hv⟩ := csrValue_of_mapped s h
  exact ⟨v, exec_csrRead_of_mapped hv⟩

/-- Settles O2: each address has the value of its counter, which `Counters.zero` leaves 0. -/
theorem counterCsrsReadTheCounters : Obligations.CounterCsrsReadTheCounters := by
  refine fun e he => ⟨fun s => exec_csrRead_of_mapped ?_, fun _ _ => Counters.zero_get e.2⟩
  fin_cases he <;> rfl

/-! ### Reading a field of a register -/

theorem toNat_extractLsb'_eq {v : Word} {lo w n : Nat} (hn : n < 2 ^ w)
    (h : ∀ k < w, v.getLsbD (lo + k) = n.testBit k) : (v.extractLsb' lo w).toNat = n := by
  refine Nat.eq_of_testBit_eq fun k => ?_
  rw [BitVec.testBit_toNat, BitVec.getLsbD_extractLsb']
  by_cases hk : k < w
  · simp [hk, h k hk]
  · have hzero : n.testBit k = false :=
      Nat.testBit_lt_two_pow (hn.trans_le (Nat.pow_le_pow_right (by omega) (by omega)))
    simp [hk, hzero]

theorem extractLsb'_eq_zero {v : Word} {lo w : Nat} (h : ∀ k < w, v.getLsbD (lo + k) = false) :
    v.extractLsb' lo w = 0 := by
  refine BitVec.eq_of_toNat_eq ((toNat_extractLsb'_eq (Nat.two_pow_pos w) fun k hk => ?_).trans ?_)
  · simpa using h k hk
  · simp

theorem halves_getLsbD (hi lo j : Nat) :
    (halves hi lo).getLsbD j =
      if j < 16 then lo.testBit j else decide (j < 32) && hi.testBit (j - 16) := by
  rw [halves, BitVec.getLsbD_or, field_getLsbD, field_getLsbD]
  by_cases hj : j < 16
  · simp [hj, show j < 32 by omega, show ¬ 16 ≤ j by omega]
  · by_cases hword : j < 32
    · simp [hj, hword, show 16 ≤ j by omega, show j - 16 < 16 by omega]
    · simp [hj, hword]

/-- The two halves of a register of R36. -/
theorem halves_extract {hi lo : Nat} (hhi : hi < 65536) (hlo : lo < 65536) :
    ((halves hi lo).extractLsb' 16 16).toNat = hi ∧
      ((halves hi lo).extractLsb' 0 16).toNat = lo := by
  refine ⟨toNat_extractLsb'_eq hhi fun k hk => ?_, toNat_extractLsb'_eq hlo fun k hk => ?_⟩
  · rw [halves_getLsbD]
    simp [show 16 + k < 32 by omega]
  · rw [halves_getLsbD]
    simp [hk]

/-! ### STATUS (R33) -/

theorem dbFlags_getLsbD (d : DBuf) {lo : Nat} (hlo : lo + 4 < 32) (j : Nat) :
    (dbFlags d lo).getLsbD j =
      (d.buf0.ready && decide (j = lo) || d.buf1.ready && decide (j = lo + 1) ||
        d.w && decide (j = lo + 2) || d.r && decide (j = lo + 3) ||
        d.isOpen && decide (j = lo + 4)) := by
  simp only [dbFlags, BitVec.getLsbD_or]
  rw [bitField_getLsbD _ (by omega), bitField_getLsbD _ (by omega), bitField_getLsbD _ (by omega),
    bitField_getLsbD _ (by omega), bitField_getLsbD _ hlo]

theorem modeBit_eq (m : ChannelMode) : modeBit m = decide (m = .ring) := by
  cases m <;> rfl

/-- STATUS by its bits: each field stands alone at its place. -/
theorem statusWord_getLsbD (s : State) (j : Nat) :
    (statusWord s).getLsbD j =
      ((dbFlags s.dbTx 0).getLsbD j || (dbFlags s.dbRx 5).getLsbD j ||
        (field s.genQ.length 4 10).getLsbD j || (field s.detQ.length 4 14).getLsbD j ||
        s.fifoFull && decide (j = 18) ||
        ((field s.ring.semEmpty 2 19).getLsbD j || (field s.ring.semFull 2 21).getLsbD j ||
          s.ring.wheld && decide (j = 23) || s.ring.rheld && decide (j = 24) ||
          s.ring.wi && decide (j = 25) || s.ring.ri && decide (j = 26)) ||
        s.tickPending && decide (j = 27) || s.pinOut && decide (j = 28) ||
        decide (s.genState = .low) && decide (j = 29) ||
        decide (s.cfg.channelMode = .ring) && decide (j = 30)) := by
  simp (disch := decide) only [statusWord, ringFlags, BitVec.getLsbD_or, bitField_getLsbD,
    modeBit_eq, beq_eq_decide]

/-- The reset value of STATUS: SEM_EMPTY is 2, the pin is high, and bit 30 is the discipline. -/
theorem statusWord_resetAt (c : Config) (n : Nat) :
    statusWord (State.resetAt c n) =
      match c.channelMode with | .fifo => 0x10100000 | .ring => 0x50100000 := by
  have hmode : statusWord (State.resetAt c n) =
      statusWord (State.resetAt { Config.reference with channelMode := c.channelMode } 0) := rfl
  rw [hmode]
  cases c.channelMode <;> decide

/-- Settles O3: the fields stand at their places (`statusWord_getLsbD`); one of several bits is read
bit by bit. -/
theorem statusRegisterShowsItsFields : Obligations.StatusRegisterShowsItsFields := by
  refine ⟨fun s hgen hdet hempty hfull => ⟨statusWord s, exec_csrRead_of_mapped rfl, ?bits⟩,
    fun c n => exec_csrRead_of_mapped (congrArg some (statusWord_resetAt c n))⟩
  case bits =>
    refine ⟨?_, ?_, ?_, ?_, ?_, ?_, ?_, ?_, ?_, ?_, ?genQ, ?detQ, ?_, ?semEmpty, ?semFull, ?_, ?_,
      ?_, ?_, ?_, ?_, ?_, ?_, ?_⟩
    case genQ | detQ | semEmpty | semFull =>
      refine toNat_extractLsb'_eq (by omega) fun k hk => ?_
      simp (disch := decide) only [statusWord_getLsbD, dbFlags_getLsbD, field_getLsbD]
      interval_cases k <;> simp
    all_goals
      simp (disch := decide) only [statusWord_getLsbD, dbFlags_getLsbD, field_getLsbD]
      simp

/-! ### The format, the modulator and the channel (R34 to R36) -/

theorem formatWord_getLsbD (s : State) (j : Nat) :
    (formatWord s).getLsbD j =
      (decide (s.fmtDepth = .d24) && decide (j = 0) ||
        decide (s.fmtRate = .r44100) && decide (j = 1)) := by
  simp (disch := decide) only [formatWord, BitVec.getLsbD_or, bitField_getLsbD, beq_eq_decide]

theorem exec_csrRead_format (s : State) :
    ∃ v : Word, exec (.csrRead 0x00) s = .next (s.respond .ok v) ∧
      v.getLsbD 0 = decide (s.fmtDepth = .d24) ∧ v.getLsbD 1 = decide (s.fmtRate = .r44100) ∧
      v.extractLsb' 2 30 = 0 := by
  refine ⟨formatWord s, exec_csrRead_of_mapped rfl, ?_, ?_, extractLsb'_eq_zero fun k hk => ?_⟩
  all_goals rw [formatWord_getLsbD]; simp
  omega

/-- CNT in bits 4:0 of CSR 0x05 (R35). -/
theorem exec_csrRead_cnt (s : State) :
    ∃ v : Word, exec (.csrRead 0x05) s = .next (s.respond .ok v) ∧
      (v.extractLsb' 0 5).toNat = s.pdm.cnt.val ∧ v.extractLsb' 5 27 = 0 := by
  refine ⟨field s.pdm.cnt.val 5 0, exec_csrRead_of_mapped rfl,
    toNat_extractLsb'_eq s.pdm.cnt.isLt fun k hk => ?_, extractLsb'_eq_zero fun k hk => ?_⟩
  · rw [field_getLsbD]
    simp [hk]
    omega
  · rw [field_getLsbD]
    simp

/-- A register of two halves shows both elements, where they fit (R11, R36). -/
theorem exec_csrRead_halves {csr : BitVec 8} {s : State} {hi lo : Nat}
    (h : csrValue s csr = some (halves hi lo)) (hhi : hi < 65536) (hlo : lo < 65536) :
    ∃ v : Word, exec (.csrRead csr) s = .next (s.respond .ok v) ∧
      (v.extractLsb' 16 16).toNat = hi ∧ (v.extractLsb' 0 16).toNat = lo :=
  ⟨_, exec_csrRead_of_mapped h, halves_extract hhi hlo⟩

theorem natU32_hz (r : Rate) :
    natU32 r.hz = match r with | .r44100 => 44100 | .r48000 => 48000 := by
  cases r <;> rfl

theorem natU32_bits (d : Depth) : natU32 d.bits = match d with | .d16 => 16 | .d24 => 24 := by
  cases d <;> rfl

/-- The registers 0x00 to 0x0F but STATUS read alike after a reset of every build. -/
theorem csrValue_resetAt {csr : BitVec 8} (hmax : csr.toNat < 0x10) (hstatus : csr.toNat ≠ 0x03)
    (c : Config) (n : Nat) : csrValue (State.resetAt c n) csr = csrValue State.reset csr := by
  unfold csrValue
  generalize csr.toNat = k at hmax hstatus
  obtain hbelow | habove := Nat.lt_or_gt_of_ne hstatus
  · interval_cases k <;> rfl
  · interval_cases k <;> rfl

/-- Settles O4: the registers of one element by the value of their address, those of several fields
by `exec_csrRead_format`, `exec_csrRead_cnt` and `exec_csrRead_halves`. -/
theorem elementCsrsReadTheirElements : Obligations.ElementCsrsReadTheirElements := by
  refine ⟨fun s => ⟨exec_csrRead_format s, ?rate, ?depth, exec_csrRead_of_mapped rfl,
      exec_csrRead_cnt s, exec_csrRead_of_mapped rfl, exec_csrRead_of_mapped rfl,
      exec_csrRead_of_mapped rfl⟩,
    fun c n e he => exec_csrRead_of_mapped ?formatReset,
    fun s => ⟨exec_csrRead_of_mapped rfl, fun e he => exec_csrRead_halves ?halves⟩,
    fun c n a ha => exec_csrRead_of_mapped ?channelReset⟩
  case rate => exact exec_csrRead_of_mapped (congrArg some (natU32_hz s.fmtRate))
  case depth => exact exec_csrRead_of_mapped (congrArg some (natU32_bits s.fmtDepth))
  case halves => fin_cases he <;> rfl
  case formatReset =>
    obtain ⟨hmax, hstatus⟩ : e.1.toNat < 0x10 ∧ e.1.toNat ≠ 0x03 := by fin_cases he <;> decide
    rw [csrValue_resetAt hmax hstatus]
    fin_cases he <;> decide
  case channelReset =>
    obtain ⟨hmax, hstatus⟩ : a.toNat < 0x10 ∧ a.toNat ≠ 0x03 := by fin_cases ha <;> decide
    rw [csrValue_resetAt hmax hstatus]
    fin_cases ha <;> decide

/-! ### The build (R38) -/

theorem natU32_toNat {n : Nat} (h : n < 2 ^ 32) : (natU32 n).toNat = n := by
  rw [natU32, BitVec.toNat_ofNat, Nat.mod_eq_of_lt h]

theorem exec_csrRead_nat {csr : BitVec 8} {s : State} {n : Nat}
    (h : csrValue s csr = some (natU32 n)) (hn : n < 2 ^ 32) :
    ∃ v : Word, exec (.csrRead csr) s = .next (s.respond .ok v) ∧ v.toNat = n :=
  ⟨_, exec_csrRead_of_mapped h, natU32_toNat hn⟩

/-- The ranges of R9 to R11, for the build parameters that a register shows. -/
structure Config.FitsRegisters (c : Config) : Prop where
  minInterval : c.minIntervalCycles < 2 ^ 32
  minPulsePeriod : c.minPulsePeriod < 2 ^ 32
  sysClk : c.sysClkHz < 2 ^ 32
  genQDepth : c.genQDepth < 2 ^ 32
  detQDepth : c.detQDepth < 2 ^ 32
  dbCap : c.dbCap < 2 ^ 32
  ringCap : c.ringCap < 2 ^ 32
  ringBatch : c.ringBatch < 2 ^ 32
  minTackt : -2 ^ 31 ≤ c.minTackt ∧ c.minTackt < 2 ^ 31

theorem Config.fitsRegisters_of_wf {c : Config} (h : c.wf = true) :
    Config.FitsRegisters c := by
  simp only [Config.wf, Config.sysClkOk, Config.minTacktOk, Config.minIntervalOk,
    Config.minPulsePeriodOk, Config.genQDepthOk, Config.detQDepthOk, Config.dbCapOk,
    Config.ringCapOk, Config.ringBatchOk, Bool.and_eq_true, decide_eq_true_eq] at h
  constructor <;> omega

/-- CHANNEL_MODE as a number: 0 is FIFO and 1 is RING (R38). -/
theorem bitField_modeBit_toNat (m : ChannelMode) :
    (bitField (modeBit m) 0).toNat = match m with | .fifo => 0 | .ring => 1 := by
  cases m <;> rfl

/-- Settles O5: in an admitted build each parameter fits its register. -/
theorem configurationCsrsReadTheBuild : Obligations.ConfigurationCsrsReadTheBuild := by
  intro s hcfg
  have hfits := Config.fitsRegisters_of_wf hcfg
  obtain ⟨hmin, hmax⟩ := hfits.minTackt
  refine ⟨?_, toU32 s.cfg.minTackt, exec_csrRead_of_mapped rfl, toU32_toInt hmin hmax⟩
  simp only [List.forall_mem_cons, List.not_mem_nil, false_imp_iff, implies_true, and_true]
  exact ⟨exec_csrRead_nat rfl hfits.minInterval, exec_csrRead_nat (n := maxCode) rfl (by decide),
    exec_csrRead_nat rfl hfits.minPulsePeriod, exec_csrRead_nat rfl hfits.sysClk,
    exec_csrRead_nat rfl hfits.genQDepth, exec_csrRead_nat rfl hfits.detQDepth,
    exec_csrRead_nat rfl hfits.dbCap, exec_csrRead_nat rfl hfits.ringCap,
    exec_csrRead_nat rfl hfits.ringBatch,
    ⟨_, exec_csrRead_of_mapped rfl, bitField_modeBit_toNat s.cfg.channelMode⟩⟩

end Sys2Proof.Machine
end

section
/-! ## No counter is read but by CSR_READ (R40)

Whatever values the counters have before a step, it has the same outcome up to its counters: every
rule reads the other parts of the state only, and an answer and a count leave those alone. -/

namespace Sys2Proof.Machine

/-! ### Outcomes that differ in the counters only -/

/-- The two outcomes are alike up to the counters of their next state. -/
def AlikeButCounters (x y : Result) : Prop :=
  mapNext State.forgetCounters x = mapNext State.forgetCounters y

/-- The values of the counters do not matter to the outcome, but for its counters. -/
def CounterBlind (x : State → Result) : Prop :=
  ∀ (s : State) (k : Counters), AlikeButCounters (x s) (x { s with counters := k })

theorem AlikeButCounters.next {s t : State} (h : s.forgetCounters = t.forgetCounters) :
    AlikeButCounters (.next s) (.next t) := congrArg Host.Outcome.next h

theorem State.forgetCounters_setPort (s : State) (p : PortId) (x : PortState) :
    (s.setPort p x).forgetCounters = s.forgetCounters.setPort p x := by cases p <;> rfl

@[simp] theorem State.forgetCounters_port (s : State) (p : PortId) :
    s.forgetCounters.port p = s.port p := by cases p <;> rfl

/-- An answer reads and writes the active port only. -/
theorem State.forgetCounters_respond (s : State) (st : Status) (v : Word) :
    (s.respond st v).forgetCounters = s.forgetCounters.respond st v := by
  have hactive : s.forgetCounters.active = s.active := rfl
  simp only [State.respond, State.forgetCounters_setPort, State.forgetCounters_port, hactive]

theorem State.forgetCounters_holdForward (s : State) (v : Word) :
    (s.holdForward v).forgetCounters = s.forgetCounters.holdForward v := by
  have hactive : s.forgetCounters.active = s.active := rfl
  simp only [State.holdForward, State.forgetCounters_setPort, State.forgetCounters_port, hactive]

theorem AlikeButCounters.respond {s t : State} (h : s.forgetCounters = t.forgetCounters)
    (st : Status) (v : Word) : AlikeButCounters (.next (s.respond st v)) (.next (t.respond st v)) :=
  .next (by rw [State.forgetCounters_respond, State.forgetCounters_respond, h])

/-- An answer after a change of a double buffer. -/
theorem AlikeButCounters.setDb_respond (s : State) (k : Counters) (i : Inst) (d : DBuf)
    (st : Status) (v : Word) :
    AlikeButCounters (.next ((s.setDb i d).respond st v))
      (.next (({ s with counters := k }.setDb i d).respond st v)) :=
  .respond (by cases i <;> rfl) st v

/-! ### The commands -/

theorem State.ringAppend_withCounters (s : State) (k : Counters) (v : Word) :
    { s with counters := k }.ringAppend v =
      (s.ringAppend v).map fun x =>
        (x.1, { x.2 with counters := if x.1 then k else k.bump .ringDrop }) := by
  unfold State.ringAppend
  dsimp only
  cases s.ring.acquireEmpty with
  | none => rfl
  | some r => dsimp only; cases r.appendHeld s.cfg.ringCap s.cfg.ringBatch v <;> rfl

theorem State.forward_counterBlind (c : Word) : CounterBlind (·.forward c) := fun s k => by
  dsimp only [State.forward]
  split
  · split
    · refine .next ?_
      rw [State.forgetCounters_holdForward, State.forgetCounters_holdForward]
      rfl
    · exact .respond (by rfl) _ _
  · rw [State.ringAppend_withCounters s k]
    cases s.ringAppend c with
    | ok x => exact .respond (by rfl) _ _
    | error e => rfl

theorem execRxPoll_counterBlind : CounterBlind execRxPoll := fun s k => by
  dsimp only [execRxPoll]
  split
  · exact .respond (by rfl) _ _
  case h_2 m rest _ =>
    split
    · exact State.forward_counterBlind _ ({ s with detQ := rest }.count .rxAccept) _
    · exact .respond (by rfl) _ _

theorem execDbBegin_counterBlind (i : Inst) : CounterBlind (execDbBegin i) := fun s k => by
  simp only [execDbBegin, State.withCounters_db]
  split
  · exact .respond (by rfl) _ _
  split
  · exact .respond (by rfl) _ _
  · exact .setDb_respond s k i _ _ _

theorem execDbPut_counterBlind (i : Inst) (x : Word) : CounterBlind (execDbPut i x) := fun s k => by
  simp only [execDbPut, State.withCounters_db, memWrite_eq]
  split
  · exact .respond (by rfl) _ _
  split
  · exact .respond (by rfl) _ _
  split
  · exact .respond (by rfl) _ _
  split
  · exact .setDb_respond s k i _ _ _
  · rfl

theorem execDbCommit_counterBlind (i : Inst) : CounterBlind (execDbCommit i) := fun s k => by
  simp only [execDbCommit, State.withCounters_db]
  split
  · exact .respond (by rfl) _ _
  split <;> exact .setDb_respond s k i _ _ _

theorem execDbGet_counterBlind (i : Inst) : CounterBlind (execDbGet i) := fun s k => by
  cases i with
  | tx => exact .respond (by rfl) _ _
  | rx =>
    dsimp only [execDbGet]
    split
    · exact .respond (by rfl) _ _
    split
    · exact .respond (by rfl) _ _
    cases s.dbRx.take s.cfg.dbCap with
    | ok x => exact .respond (by rfl) _ _
    | error e => rfl

theorem execRingAppend_counterBlind (w : Word) : CounterBlind (execRingAppend w) := fun s k => by
  simp only [execRingAppend, State.ringAppend_withCounters]
  split
  · exact .respond (by rfl) _ _
  cases s.ringAppend w with
  | ok x =>
    obtain ⟨appended, s'⟩ := x
    cases appended <;> exact .respond (by rfl) _ _
  | error e => rfl

theorem execRingPop_counterBlind : CounterBlind execRingPop := fun s k => by
  dsimp only [execRingPop]
  split
  · exact .respond (by rfl) _ _
  split
  · exact .respond (by rfl) _ _
  case h_2 r _ =>
    cases r.takeHeld s.cfg.ringCap with
    | ok x => exact .respond (by rfl) _ _
    | error e => rfl

/-- No command but CSR_READ reads a counter. -/
theorem exec_counterBlind {i : Instr} (hi : ∀ csr, i ≠ .csrRead csr) : CounterBlind (exec i) := by
  intro s k
  cases i with
  | csrRead csr => exact absurd rfl (hi csr)
  | nop | statsClear => exact .respond (by rfl) _ _
  | setFormat | ppmEncode | ppmDecode | downmix | detPop | rxCorrect =>
    dsimp only [exec, execSetFormat, execPpmEncode, execPpmDecode, execDownmix, execDetPop,
      execRxCorrect]
    split <;> exact .respond (by rfl) _ _
  | pdmStep x =>
    dsimp only [exec, execPdmStep]
    split
    · split <;> exact .respond (by rfl) _ _
    · exact .respond (by rfl) _ _
  | genPush w =>
    have hspace : { s with counters := k }.genSpace = s.genSpace := rfl
    simp only [exec, execGenPush, hspace]
    split
    · exact .respond (by rfl) _ _
    split
    · exact .respond (by rfl) _ _
    · exact .next (by rfl)
  | fifoPush w =>
    dsimp only [exec, execFifoPush]
    split
    · exact .respond (by rfl) _ _
    split
    · exact .next (by rfl)
    · exact .respond (by rfl) _ _
  | fifoPop =>
    dsimp only [exec, execFifoPop]
    split
    · exact .respond (by rfl) _ _
    split
    · exact .respond (by rfl) _ _
    · exact .next (by rfl)
  | ringFlush =>
    dsimp only [exec, execRingFlush]
    split
    · exact .respond (by rfl) _ _
    split <;> exact .respond (by rfl) _ _
  | rxPoll => exact execRxPoll_counterBlind s k
  | dbBegin i => exact execDbBegin_counterBlind i s k
  | dbPut i x => exact execDbPut_counterBlind i x s k
  | dbCommit i => exact execDbCommit_counterBlind i s k
  | dbGet i => exact execDbGet_counterBlind i s k
  | ringAppend w => exact execRingAppend_counterBlind w s k
  | ringPop => exact execRingPop_counterBlind s k

/-! ### The other agents -/

theorem takeTick_counterBlind : CounterBlind takeTick := fun s k => by
  dsimp only [takeTick]
  split
  · cases s.dbTx.take s.cfg.dbCap <;> rfl
  · rfl

theorem State.tick_counterBlind : CounterBlind (.next ·.tick) := fun s k => by
  refine .next ?_
  unfold State.tick
  dsimp only
  split <;> rfl

theorem State.genStart_counterBlind : CounterBlind (.next ·.genStart) := fun s k => by
  refine .next ?_
  dsimp only [State.genStart]
  split <;> rfl

theorem State.genEnd_counterBlind : CounterBlind (.next ·.genEnd) := fun s k => by
  refine .next ?_
  dsimp only [State.genEnd]
  split <;> rfl

theorem State.capture_counterBlind (m : Word) : CounterBlind (.next <| ·.capture m) := fun s k => by
  refine .next ?_
  obtain hspace | hfull := Nat.lt_or_ge s.detQ.length s.cfg.detQDepth
  · rw [State.capture_of_space m hspace,
      State.capture_of_space (s := { s with counters := k }) m hspace]
    rfl
  · rw [State.capture_of_full m hfull,
      State.capture_of_full (s := { s with counters := k }) m hfull]
    rfl

/-- No agent other than a port reads a counter. -/
theorem runEvent_counterBlind {e : Event} (hcmd : ∀ p t, e ≠ .command p t)
    (hproceed : ∀ p, e ≠ .proceed p) : CounterBlind (runEvent e) := by
  intro s k
  cases e with
  | command p t => exact absurd rfl (hcmd p t)
  | proceed p => exact absurd rfl (hproceed p)
  | tick => exact State.tick_counterBlind s k
  | txTick =>
    have hen : { s with counters := k }.txTickEnabled = s.txTickEnabled := rfl
    simp only [runEvent, hen]
    split
    · exact takeTick_counterBlind s k
    · exact .next (by rfl)
  | genStart => exact State.genStart_counterBlind s k
  | genEnd => exact State.genEnd_counterBlind s k
  | capture m => exact State.capture_counterBlind m s k
  | powerOn => exact .next (by rfl)

/-- Settles O49: commands and agents are blind to the counters, whichever values these have. -/
theorem countersAreReadOnlyByCsrRead : Obligations.CountersAreReadOnlyByCsrRead :=
  ⟨fun _ s hi => exec_counterBlind hi s Counters.zero,
    fun _ s hcmd hproceed => runEvent_counterBlind hcmd hproceed s Counters.zero⟩

end Sys2Proof.Machine
end
